-- ==== Sys2Proof/Word.lean ====
section
/-!
DEFINITION. The words of the machine: bytes, instruction words, and the fields that an instruction word carries
(30 R140 to R142, 00 R9, R10).
-/

namespace Sys2Proof

/-- A byte, 8 bits (00 R10). -/
abbrev Byte := BitVec 8

/-- An instruction word, 16 bits (30 R140). -/
abbrev InstrWord := BitVec 16

/-- A nibble of an instruction word: four bits of a pattern (30 R141). -/
abbrev Nibble := BitVec 4

/-- The number of a general register, 0 to 15; 15 is `SP` (10 R21). -/
abbrev Reg := BitVec 4

/-- The number of an FPU register, 0 to 15 (10 R58). -/
abbrev FReg := BitVec 4

/-- The number of a register of the inactive bank, 0 to 7 (30 R144). -/
abbrev BankReg := BitVec 3

/-- The instruction word whose pattern is the four nibbles `a b c d`, most significant first (30 R141). -/
def word4 (a b c d : Nibble) : InstrWord := a ++ b ++ c ++ d

end Sys2Proof
end

