-- ==== Sys2Proof/Syntax.lean ====
section
/-!
DEFINITION. The instructions: one constructor for each row of spec/opcode_table.json that names an instruction, its operands
source first and destination last, as the source writes them (30 R159). The rows that name no instruction (marked unused,
reserved or unlisted, 184 patterns) are three constructors that carry the word; `Instr.wellFormed` says which words each
covers. Each docstring gives the pattern of the row, its syntax and the rule that gives its meaning. A suffix of a name tells
forms of one mnemonic apart: `Idx` is `@(R0,R)`, `Disp` is `@(R,disp)`, `Gbr` is `@(GBR,disp)`, `Pc` is `@(PC,disp)`, `Push`
is `@-R`, `Pop` is `@R+`. The rows without an operand stand last.
-/

namespace Sys2Proof

/-- An instruction of the CPU (30 R148). -/
inductive Instr where
  -- Group 0 (40)
  /-- `0n02`, `STC SR, Rn`: R201. -/
  | stcSr (n : Reg)
  /-- `0n12`, `STC GBR, Rn`: R202. -/
  | stcGbr (n : Reg)
  /-- `0n22`, `STC VBR, Rn`: R203. -/
  | stcVbr (n : Reg)
  /-- `0n32`, `STC SSR, Rn`: R204. -/
  | stcSsr (n : Reg)
  /-- `0n42`, `STC SPC, Rn`: R205. -/
  | stcSpc (n : Reg)
  /-- `0n52`, `STC DBR, Rn`: R206. -/
  | stcDbr (n : Reg)
  /-- `0nM2`, `STC Rm_B, Rn`: R207. -/
  | stcBank (m : BankReg) (n : Reg)
  /-- `0m03`, `BSRF Rm`: R208. -/
  | bsrf (m : Reg)
  /-- `0m23`, `BSAF Rm`: R209. -/
  | bsaf (m : Reg)
  /-- `0n83`, `PREF @Rn`: R210. -/
  | pref (n : Reg)
  /-- `0nC3`, `MOVCA.L R0, @Rn`: R211. -/
  | movcaL (n : Reg)
  /-- `0nm4`, `MOV.B Rm, @(R0,Rn)`: R212. -/
  | movBStoreIdx (m : Reg) (n : Reg)
  /-- `0nm5`, `MOV.W/Q Rm, @(R0,Rn)`: R213. -/
  | movWqStoreIdx (m : Reg) (n : Reg)
  /-- `0nm6`, `MOV.L Rm, @(R0,Rn)`: R214. -/
  | movLStoreIdx (m : Reg) (n : Reg)
  /-- `0nm7`, `MUL.L/Q Rm, Rn`: R215. -/
  | mulLq (m : Reg) (n : Reg)
  /-- `0n29`, `MOVT Rn`: R227. -/
  | movt (n : Reg)
  /-- `0n0A`, `STS MACH, Rn`: R228. -/
  | stsMach (n : Reg)
  /-- `0n1A`, `STS MACL, Rn`: R229. -/
  | stsMacl (n : Reg)
  /-- `0n2A`, `STS PR, Rn`: R230. -/
  | stsPr (n : Reg)
  /-- `0n5A`, `STS FPUL, Rn`: R231. -/
  | stsFpul (n : Reg)
  /-- `0n6A`, `STS FPSCR, Rn`: R232. -/
  | stsFpscr (n : Reg)
  /-- `0nmC`, `MOV.B @(R0,Rm), Rn`: R239. -/
  | movBLoadIdx (m : Reg) (n : Reg)
  /-- `0nmD`, `MOV.W/Q @(R0,Rm), Rn`: R240. -/
  | movWqLoadIdx (m : Reg) (n : Reg)
  /-- `0nmE`, `MOV.L @(R0,Rm), Rn`: R241. -/
  | movLLoadIdx (m : Reg) (n : Reg)
  /-- `0nmF`, `MAC.L @Rm+, @Rn+`: R242. -/
  | macL (m : Reg) (n : Reg)
  -- Groups 1 and 2 (41)
  /-- `1nmd`, `MOV.L Rm, @(Rn,disp)`: R250. -/
  | movLStoreDisp (m : Reg) (n : Reg) (d : BitVec 4)
  /-- `2nm0`, `MOV.B Rm, @Rn`: R251. -/
  | movBStore (m : Reg) (n : Reg)
  /-- `2nm1`, `MOV.W/Q Rm, @Rn`: R252. -/
  | movWqStore (m : Reg) (n : Reg)
  /-- `2nm2`, `MOV.L Rm, @Rn`: R253. -/
  | movLStore (m : Reg) (n : Reg)
  /-- `2nm3`, `CAS.L Rm, Rn, @R0`: R254. -/
  | casL (m : Reg) (n : Reg)
  /-- `2nm4`, `MOV.B Rm, @-Rn`: R255. -/
  | movBPush (m : Reg) (n : Reg)
  /-- `2nm5`, `MOV.W/Q Rm, @-Rn`: R256. -/
  | movWqPush (m : Reg) (n : Reg)
  /-- `2nm6`, `MOV.L Rm, @-Rn`: R257. -/
  | movLPush (m : Reg) (n : Reg)
  /-- `2nm7`, `DIV0S Rm, Rn`: R258. -/
  | div0s (m : Reg) (n : Reg)
  /-- `2nm8`, `TST Rm, Rn`: R259. -/
  | tst (m : Reg) (n : Reg)
  /-- `2nm9`, `AND Rm, Rn`: R260. -/
  | and (m : Reg) (n : Reg)
  /-- `2nmA`, `XOR Rm, Rn`: R261. -/
  | xor (m : Reg) (n : Reg)
  /-- `2nmB`, `OR Rm, Rn`: R262. -/
  | or (m : Reg) (n : Reg)
  /-- `2nmC`, `CMPSTR Rm, Rn`: R263. -/
  | cmpstr (m : Reg) (n : Reg)
  /-- `2nmD`, `XTRCT Rm, Rn`: R264. -/
  | xtrct (m : Reg) (n : Reg)
  /-- `2nmE`, `MULU.W/L Rm, Rn`: R265. -/
  | muluWl (m : Reg) (n : Reg)
  /-- `2nmF`, `MULS.W/L Rm, Rn`: R266. -/
  | mulsWl (m : Reg) (n : Reg)
  -- Group 3 (42)
  /-- `3nm0`, `CMPEQ Rm, Rn`: R270. -/
  | cmpeq (m : Reg) (n : Reg)
  /-- `3nm2`, `CMPHS Rm, Rn`: R271. -/
  | cmphs (m : Reg) (n : Reg)
  /-- `3nm3`, `CMPGE Rm, Rn`: R272. -/
  | cmpge (m : Reg) (n : Reg)
  /-- `3nm4`, `DIV1 Rm, Rn`: R273. -/
  | div1 (m : Reg) (n : Reg)
  /-- `3nm5`, `DMULU.L/Q Rm, Rn`: R274. -/
  | dmuluLq (m : Reg) (n : Reg)
  /-- `3nm6`, `CMPHI Rm, Rn`: R275. -/
  | cmphi (m : Reg) (n : Reg)
  /-- `3nm7`, `CMPGT Rm, Rn`: R276. -/
  | cmpgt (m : Reg) (n : Reg)
  /-- `3nm8`, `SUB Rm, Rn`: R277. -/
  | sub (m : Reg) (n : Reg)
  /-- `3nmA`, `SUBC Rm, Rn`: R278. -/
  | subc (m : Reg) (n : Reg)
  /-- `3nmB`, `SUBV Rm, Rn`: R279. -/
  | subv (m : Reg) (n : Reg)
  /-- `3nmC`, `ADD Rm, Rn`: R280. -/
  | add (m : Reg) (n : Reg)
  /-- `3nmD`, `DMULS.L/Q Rm, Rn`: R281. -/
  | dmulsLq (m : Reg) (n : Reg)
  /-- `3nmE`, `ADDC Rm, Rn`: R282. -/
  | addc (m : Reg) (n : Reg)
  /-- `3nmF`, `ADDV Rm, Rn`: R283. -/
  | addv (m : Reg) (n : Reg)
  -- Group 4 (43, 44)
  /-- `4n00`, `SHLL Rn`: R290. -/
  | shll (n : Reg)
  /-- `4n10`, `DT Rn`: R291. -/
  | dt (n : Reg)
  /-- `4n20`, `SHAL Rn`: R292. -/
  | shal (n : Reg)
  /-- `4n01`, `SHLR Rn`: R293. -/
  | shlr (n : Reg)
  /-- `4n11`, `CMPPZ Rn`: R294. -/
  | cmppz (n : Reg)
  /-- `4n21`, `SHAR Rn`: R295. -/
  | shar (n : Reg)
  /-- `4n02`, `STS.L/Q MACH, @-Rn`: R296. -/
  | stsMachPush (n : Reg)
  /-- `4n12`, `STS.L/Q MACL, @-Rn`: R297. -/
  | stsMaclPush (n : Reg)
  /-- `4n22`, `STS.L/Q PR, @-Rn`: R298. -/
  | stsPrPush (n : Reg)
  /-- `4n52`, `STS.L/Q FPUL, @-Rn`: R299. -/
  | stsFpulPush (n : Reg)
  /-- `4n62`, `STS.L/Q FPSCR, @-Rn`: R300. -/
  | stsFpscrPush (n : Reg)
  /-- `4n03`, `STC.L/Q SR, @-Rn`: R301. -/
  | stcSrPush (n : Reg)
  /-- `4n13`, `STC.L/Q GBR, @-Rn`: R302. -/
  | stcGbrPush (n : Reg)
  /-- `4n23`, `STC.L/Q VBR, @-Rn`: R303. -/
  | stcVbrPush (n : Reg)
  /-- `4n33`, `STC.L/Q SSR, @-Rn`: R304. -/
  | stcSsrPush (n : Reg)
  /-- `4n43`, `STC.L/Q SPC, @-Rn`: R305. -/
  | stcSpcPush (n : Reg)
  /-- `4n53`, `STC.L/Q DBR, @-Rn`: R306. -/
  | stcDbrPush (n : Reg)
  /-- `4nM3`, `STC.L/Q Rm_B, @-Rn`: R307. -/
  | stcBankPush (m : BankReg) (n : Reg)
  /-- `4n04`, `ROTL Rn`: R308. -/
  | rotl (n : Reg)
  /-- `4n24`, `ROTCL Rn`: R309. -/
  | rotcl (n : Reg)
  /-- `4n44`, `EXTU.L Rn`: R310. -/
  | extuL (n : Reg)
  /-- `4n54`, `EXTS.L Rn`: R311. -/
  | extsL (n : Reg)
  /-- `4n64`, `BSWAP.L Rn`: R312. -/
  | bswapL (n : Reg)
  /-- `4n74`, `BSWAP.Q Rn`: R313. -/
  | bswapQ (n : Reg)
  /-- `4n84`, `SWAP.L Rn`: R314. -/
  | swapL (n : Reg)
  /-- `4n05`, `ROTR Rn`: R315. -/
  | rotr (n : Reg)
  /-- `4n15`, `CMPPL Rn`: R316. -/
  | cmppl (n : Reg)
  /-- `4n25`, `ROTCR Rn`: R317. -/
  | rotcr (n : Reg)
  /-- `4m06`, `LDS.L/Q @Rm+, MACH`: R318. -/
  | ldsMachPop (m : Reg)
  /-- `4m16`, `LDS.L/Q @Rm+, MACL`: R319. -/
  | ldsMaclPop (m : Reg)
  /-- `4m26`, `LDS.L/Q @Rm+, PR`: R320. -/
  | ldsPrPop (m : Reg)
  /-- `4m56`, `LDS.L/Q @Rm+, FPUL`: R321. -/
  | ldsFpulPop (m : Reg)
  /-- `4m66`, `LDS.L/Q @Rm+, FPSCR`: R322. -/
  | ldsFpscrPop (m : Reg)
  /-- `4m07`, `LDC.L/Q @Rm+, SR`: R323. -/
  | ldcSrPop (m : Reg)
  /-- `4m17`, `LDC.L/Q @Rm+, GBR`: R324. -/
  | ldcGbrPop (m : Reg)
  /-- `4m27`, `LDC.L/Q @Rm+, VBR`: R325. -/
  | ldcVbrPop (m : Reg)
  /-- `4m37`, `LDC.L/Q @Rm+, SSR`: R326. -/
  | ldcSsrPop (m : Reg)
  /-- `4m47`, `LDC.L/Q @Rm+, SPC`: R327. -/
  | ldcSpcPop (m : Reg)
  /-- `4m57`, `LDC.L/Q @Rm+, DBR`: R328. -/
  | ldcDbrPop (m : Reg)
  /-- `4mN7`, `LDC.L/Q @Rm+, Rn_B`: R329. -/
  | ldcBankPop (m : Reg) (n : BankReg)
  /-- `4n08`, `SHLL2 Rn`: R335. -/
  | shll2 (n : Reg)
  /-- `4n18`, `SHLL8 Rn`: R336. -/
  | shll8 (n : Reg)
  /-- `4n28`, `SHLL16 Rn`: R337. -/
  | shll16 (n : Reg)
  /-- `4n09`, `SHLR2 Rn`: R338. -/
  | shlr2 (n : Reg)
  /-- `4n19`, `SHLR8 Rn`: R339. -/
  | shlr8 (n : Reg)
  /-- `4n29`, `SHLR16 Rn`: R340. -/
  | shlr16 (n : Reg)
  /-- `4m0A`, `LDS Rm, MACH`: R341. -/
  | ldsMach (m : Reg)
  /-- `4m1A`, `LDS Rm, MACL`: R342. -/
  | ldsMacl (m : Reg)
  /-- `4m2A`, `LDS Rm, PR`: R343. -/
  | ldsPr (m : Reg)
  /-- `4m5A`, `LDS Rm, FPUL`: R344. -/
  | ldsFpul (m : Reg)
  /-- `4m6A`, `LDS Rm, FPSCR`: R345. -/
  | ldsFpscr (m : Reg)
  /-- `4m0B`, `JSR Rm`: R346. -/
  | jsr (m : Reg)
  /-- `4m1B`, `TAS.B @Rn`: R347. -/
  | tasB (m : Reg)
  /-- `4m2B`, `JMP Rm`: R348. -/
  | jmp (m : Reg)
  /-- `4nmC`, `SHAD Rm, Rn`: R349. -/
  | shad (m : Reg) (n : Reg)
  /-- `4nmD`, `SHLD Rm, Rn`: R350. -/
  | shld (m : Reg) (n : Reg)
  /-- `4m0E`, `LDC Rm, SR`: R351. -/
  | ldcSr (m : Reg)
  /-- `4m1E`, `LDC Rm, GBR`: R352. -/
  | ldcGbr (m : Reg)
  /-- `4m2E`, `LDC Rm, VBR`: R353. -/
  | ldcVbr (m : Reg)
  /-- `4m3E`, `LDC Rm, SSR`: R354. -/
  | ldcSsr (m : Reg)
  /-- `4m4E`, `LDC Rm, SPC`: R355. -/
  | ldcSpc (m : Reg)
  /-- `4m5E`, `LDC Rm, DBR`: R356. -/
  | ldcDbr (m : Reg)
  /-- `4mNE`, `LDC Rm, Rn_B`: R357. -/
  | ldcBank (m : Reg) (n : BankReg)
  /-- `4nmF`, `MAC.W/Q @Rm+, @Rn+`: R358. -/
  | macWq (m : Reg) (n : Reg)
  -- Groups 5 and 6 (45)
  /-- `5nmd`, `MOV.L @(Rm,disp), Rn`: R365. -/
  | movLLoadDisp (m : Reg) (d : BitVec 4) (n : Reg)
  /-- `6nm0`, `MOV.B @Rm, Rn`: R366. -/
  | movBLoad (m : Reg) (n : Reg)
  /-- `6nm1`, `MOV.W/Q @Rm, Rn`: R367. -/
  | movWqLoad (m : Reg) (n : Reg)
  /-- `6nm2`, `MOV.L @Rm, Rn`: R368. -/
  | movLLoad (m : Reg) (n : Reg)
  /-- `6nm3`, `MOV Rm, Rn`: R369. -/
  | mov (m : Reg) (n : Reg)
  /-- `6nm4`, `MOV.B @Rm+, Rn`: R370. -/
  | movBPop (m : Reg) (n : Reg)
  /-- `6nm5`, `MOV.W/Q @Rm+, Rn`: R371. -/
  | movWqPop (m : Reg) (n : Reg)
  /-- `6nm6`, `MOV.L @Rm+, Rn`: R372. -/
  | movLPop (m : Reg) (n : Reg)
  /-- `6nm7`, `NOT Rm, Rn`: R373. -/
  | not (m : Reg) (n : Reg)
  /-- `6nm8`, `SWAP.B Rm, Rn`: R374. -/
  | swapB (m : Reg) (n : Reg)
  /-- `6nm9`, `SWAP.W Rm, Rn`: R375. -/
  | swapW (m : Reg) (n : Reg)
  /-- `6nmA`, `NEGC Rm, Rn`: R376. -/
  | negc (m : Reg) (n : Reg)
  /-- `6nmB`, `NEG Rm, Rn`: R377. -/
  | neg (m : Reg) (n : Reg)
  /-- `6nmC`, `EXTU.B Rm, Rn`: R378. -/
  | extuB (m : Reg) (n : Reg)
  /-- `6nmD`, `EXTS.B Rm, Rn`: R379. -/
  | extsB (m : Reg) (n : Reg)
  /-- `6nmE`, `EXTU.W Rm, Rn`: R380. -/
  | extuW (m : Reg) (n : Reg)
  /-- `6nmF`, `EXTS.W Rm, Rn`: R381. -/
  | extsW (m : Reg) (n : Reg)
  -- Groups 7, 8 and 9 (46)
  /-- `7nii`, `ADD #imm, Rn`: R385. -/
  | addImm (i : BitVec 8) (n : Reg)
  /-- `80nd`, `MOV.B R0, @(Rn,disp)`: R386. -/
  | movBStoreR0Disp (n : Reg) (d : BitVec 4)
  /-- `81nd`, `MOV.W/Q R0, @(Rn,disp)`: R387. -/
  | movWqStoreR0Disp (n : Reg) (d : BitVec 4)
  /-- `81n0`, `MOV.W R0, @Rn`: R388. -/
  | movWStoreR0 (n : Reg)
  /-- `84md`, `MOV.B @(Rm,disp), R0`: R389. -/
  | movBLoadR0Disp (m : Reg) (d : BitVec 4)
  /-- `85md`, `MOV.W/Q @(Rm,disp), R0`: R390. -/
  | movWqLoadR0Disp (m : Reg) (d : BitVec 4)
  /-- `85m0`, `MOV.W @Rm, R0`: R391. -/
  | movWLoadR0 (m : Reg)
  /-- `88ii`, `CMPEQ #imm, R0`: R392. -/
  | cmpeqImm (i : BitVec 8)
  /-- `89dd`, `BT label`: R393. -/
  | bt (d : BitVec 8)
  /-- `8Bdd`, `BF label`: R394. -/
  | bf (d : BitVec 8)
  /-- `8Cii`, `LDSH8 #imm, R0`: R395. -/
  | ldsh8 (i : BitVec 8)
  /-- `8Ddd`, `BTS label`: R396. -/
  | bts (d : BitVec 8)
  /-- `8Fdd`, `BFS label`: R397. -/
  | bfs (d : BitVec 8)
  /-- `9nmd`, `MOV.W/Q @(Rm,disp), Rn`: R398. -/
  | movWqLoadDisp (m : Reg) (d : BitVec 4) (n : Reg)
  /-- `9nm0`, `MOV.W @Rm, Rn`: R399. -/
  | movWLoad (m : Reg) (n : Reg)
  -- Groups A to E (47)
  /-- `Addd`, `BRA label`: R405. -/
  | bra (d : BitVec 12)
  /-- `Bddd`, `BSR label`: R406. -/
  | bsr (d : BitVec 12)
  /-- `C0dd`, `MOV.B R0, @(GBR,disp)`: R407. -/
  | movBStoreGbr (d : BitVec 8)
  /-- `C1dd`, `MOV.W/Q R0, @(GBR,disp)`: R408. -/
  | movWqStoreGbr (d : BitVec 8)
  /-- `C2dd`, `MOV.L R0, @(GBR,disp)`: R409. -/
  | movLStoreGbr (d : BitVec 8)
  /-- `C3jj`, `TRAPA #imm`: R410. -/
  | trapa (j : BitVec 8)
  /-- `C4dd`, `MOV.B @(GBR,disp), R0`: R411. -/
  | movBLoadGbr (d : BitVec 8)
  /-- `C5dd`, `MOV.W/Q @(GBR,disp), R0`: R412. -/
  | movWqLoadGbr (d : BitVec 8)
  /-- `C6dd`, `MOV.L @(GBR,disp), R0`: R413. -/
  | movLLoadGbr (d : BitVec 8)
  /-- `C7dd`, `MOVA @(PC,disp), R0`: R414. -/
  | mova (d : BitVec 8)
  /-- `C8jj`, `TST #imm, R0`: R415. -/
  | tstImm (j : BitVec 8)
  /-- `C9jj`, `AND #imm, R0`: R416. -/
  | andImm (j : BitVec 8)
  /-- `CAjj`, `XOR #imm, R0`: R417. -/
  | xorImm (j : BitVec 8)
  /-- `CBjj`, `OR #imm, R0`: R418. -/
  | orImm (j : BitVec 8)
  /-- `CCjj`, `TST.B #imm, @(GBR,R0)`: R419. -/
  | tstB (j : BitVec 8)
  /-- `CDjj`, `AND.B #imm, @(GBR,R0)`: R420. -/
  | andB (j : BitVec 8)
  /-- `CEjj`, `XOR.B #imm, @(GBR,R0)`: R421. -/
  | xorB (j : BitVec 8)
  /-- `CFjj`, `OR.B #imm, @(GBR,R0)`: R422. -/
  | orB (j : BitVec 8)
  /-- `Dndd`, `MOV.L/Q @(PC,disp), Rn`: R423. -/
  | movLqLoadPc (d : BitVec 8) (n : Reg)
  /-- `Enii`, `MOV #imm, Rn`: R424. -/
  | movImm (i : BitVec 8) (n : Reg)
  -- Group F, the FPU (48)
  /-- `Fnm0`, `FADD FRm, FRn`: R432. -/
  | fadd (m : FReg) (n : FReg)
  /-- `Fnm1`, `FSUB FRm, FRn`: R433. -/
  | fsub (m : FReg) (n : FReg)
  /-- `Fnm2`, `FMUL FRm, FRn`: R434. -/
  | fmul (m : FReg) (n : FReg)
  /-- `Fnm3`, `FDIV FRm, FRn`: R435. -/
  | fdiv (m : FReg) (n : FReg)
  /-- `Fnm4`, `FCMPEQ FRm, FRn`: R436. -/
  | fcmpeq (m : FReg) (n : FReg)
  /-- `Fnm5`, `FCMPGT FRm, FRn`: R437. -/
  | fcmpgt (m : FReg) (n : FReg)
  /-- `Fnm6`, `FMOV.S @(R0,Rm), FRn`: R438. -/
  | fmovLoadIdx (m : Reg) (n : FReg)
  /-- `Fnm7`, `FMOV.S FRm, @(R0,Rn)`: R439. -/
  | fmovStoreIdx (m : FReg) (n : Reg)
  /-- `Fnm8`, `FMOV.S @Rm, FRn`: R440. -/
  | fmovLoad (m : Reg) (n : FReg)
  /-- `Fnm9`, `FMOV.S @Rm+, FRn`: R441. -/
  | fmovPop (m : Reg) (n : FReg)
  /-- `FnmA`, `FMOV.S FRm, @Rn`: R442. -/
  | fmovStore (m : FReg) (n : Reg)
  /-- `FnmB`, `FMOV.S FRm, @-Rn`: R443. -/
  | fmovPush (m : FReg) (n : Reg)
  /-- `FnmC`, `FMOV FRm, FRn`: R444. -/
  | fmov (m : FReg) (n : FReg)
  /-- `Fn0D`, `FSTS FRn`: R445. -/
  | fsts (n : FReg)
  /-- `Fm1D`, `FLDS FRm`: R446. -/
  | flds (m : FReg)
  /-- `Fn2D`, `FLOAT FRn`: R447. -/
  | float (n : FReg)
  /-- `Fm3D`, `FTRC FRm`: R448. -/
  | ftrc (m : FReg)
  /-- `Fn4D`, `FNEG FRn`: R449. -/
  | fneg (n : FReg)
  /-- `Fn5D`, `FABS FRn`: R450. -/
  | fabs (n : FReg)
  /-- `Fn6D`, `FSQRT FRn`: R451. -/
  | fsqrt (n : FReg)
  /-- `Fn8D`, `FLDI0 FRn`: R452. -/
  | fldi0 (n : FReg)
  /-- `Fn9D`, `FLDI1 FRn`: R453. -/
  | fldi1 (n : FReg)
  /-- `FnAD`, `FCNVSD FRn`: R454. -/
  | fcnvsd (n : FReg)
  /-- `FmBD`, `FCNVDS FRm`: R455. -/
  | fcnvds (m : FReg)
  /-- `FnmE`, `FMAC FRm, FRn`: R457. -/
  | fmac (m : FReg) (n : FReg)
  -- Fat loads (49)
  /-- `008B EnXX XXXX`, `LDFAT.L ; MOV #imm24, Rn`: R472. -/
  | ldfatMov24 (imm : BitVec 24) (n : Reg)
  /-- `009B EnXX XXXX-XXXX`, `LDFAT.Q ; MOV #imm40, Rn`: R473. -/
  | ldfatMov40 (imm : BitVec 40) (n : Reg)
  /-- `009B EnXX-XXXX XXXX-XXXX`, `LDFAT.Q ; MOV #imm56, Rn`: R474. -/
  | ldfatMov56 (imm : BitVec 56) (n : Reg)
  /-- `008B Addd dddd`, `LDFAT.L ; BRA label28`: R475. -/
  | ldfatBra (d : BitVec 28)
  /-- `008B Bddd dddd`, `LDFAT.L ; BSR label28`: R476. -/
  | ldfatBsr (d : BitVec 28)
  /-- `005B Bddd dddd-dddd`, `/ BSR, 44-bit, not implemented`: R478. -/
  | fatBsr44 (d : BitVec 44)
  /-- `005B Bddd-dddd dddd-dddd`, `/ BSR, 60-bit, not implemented`: R478. -/
  | fatBsr60 (d : BitVec 60)
  -- Rows that the source marks not implemented (30 R149): `x` is the part of the word that the row leaves open
  /-- `0n93`, `OCBI @Rn`, not implemented: R153. -/
  | ocbi (x : BitVec 4)
  /-- `0nA3`, `OCBP @Rn`, not implemented: R153. -/
  | ocbp (x : BitVec 4)
  /-- `0nB3`, `OCBWB @Rn`, not implemented: R153. -/
  | ocbwb (x : BitVec 4)
  /-- `0n39`, `MOVRT Rn`, not implemented: R153. -/
  | movrt (x : BitVec 4)
  /-- `0-4A`, `STC TBR, Rn`, not implemented: R153. -/
  | stcTbr (x : BitVec 4)
  /-- `0m7B`, `RTV/N Rm`, not implemented: R153. -/
  | rtvN (x : BitVec 4)
  /-- `4n80`, `MULR R0, Rn`, not implemented: R153. -/
  | mulr (x : BitVec 4)
  /-- `4mF0`, `MOVMU.L Rm, @-R15`, not implemented: R153. -/
  | movmuPush (x : BitVec 4)
  /-- `4n81`, `CLIPU.B`, not implemented: R153. -/
  | clipuB (x : BitVec 4)
  /-- `4n91`, `CLIPS.B`, not implemented: R153. -/
  | clipsB (x : BitVec 4)
  /-- `4nE1`, `STBANK R0, @Rn`, not implemented: R153. -/
  | stbank (x : BitVec 4)
  /-- `4mF1`, `MOVML.L Rm, @-R15`, not implemented: R153. -/
  | movmlPush (x : BitVec 4)
  /-- `4n94`, `DIVU R0, Rn | DIVS R0, Rn`, not implemented: R153. -/
  | divu (x : BitVec 4)
  /-- `4nF4`, `MOVMU.L @R15+, Rn`, not implemented: R153. -/
  | movmuPop (x : BitVec 4)
  /-- `4n85`, `CLIPU.W`, not implemented: R153. -/
  | clipuW (x : BitVec 4)
  /-- `4n95`, `CLIPS.W`, not implemented: R153. -/
  | clipsW (x : BitVec 4)
  /-- `4mE5`, `LDBANK`, not implemented: R153. -/
  | ldbank (x : BitVec 4)
  /-- `4nF5`, `MOVML.L @R15+, Rn`, not implemented: R153. -/
  | movmlPop (x : BitVec 4)
  /-- `4m4A`, `LDC Rm, TBR`, not implemented: R153. -/
  | ldcTbr (x : BitVec 4)
  /-- `4m4B`, `JSR/N`, not implemented: R153. -/
  | jsrN (x : BitVec 4)
  /-- `4m8B`, `MOV.B R0, @Rn+`, not implemented: R153. -/
  | movBR0Post (x : BitVec 4)
  /-- `4m9B`, `MOV.W R0, @Rn+`, not implemented: R153. -/
  | movWR0Post (x : BitVec 4)
  /-- `4mAB`, `MOV.L R0, @Rn+`, not implemented: R153. -/
  | movLR0Post (x : BitVec 4)
  /-- `4mCB`, `MOV.B @-Rm, R0`, not implemented: R153. -/
  | movBR0Pre (x : BitVec 4)
  /-- `4mDB`, `MOV.W @-Rm, R0`, not implemented: R153. -/
  | movWR0Pre (x : BitVec 4)
  /-- `4mEB`, `MOV.L @-Rm, R0`, not implemented: R153. -/
  | movLR0Pre (x : BitVec 4)
  /-- `83--`, `JSR/N`, not implemented: R153. -/
  | jsrN8 (x : BitVec 8)
  /-- `86--`, `BSET|BCLR #imm3, Rn`, not implemented: R153. -/
  | bset (x : BitVec 8)
  /-- `87--`, `BST|BLD #imm3, Rn`, not implemented: R153. -/
  | bst (x : BitVec 8)
  /-- `F-7D`, `FTRV`, not implemented: R153. -/
  | ftrv (x : BitVec 4)
  /-- `F-ED`, `FIPR`, not implemented: R153. -/
  | fipr (x : BitVec 4)
  -- Words that name no instruction
  /-- The word of a slot the source marks `-` or leaves empty: 30 R150. -/
  | unused (w : InstrWord)
  /-- The word of a block reserved for 32-bit operations: 30 R151. -/
  | reserved (w : InstrWord)
  /-- The word of a word without a row: 30 R152. -/
  | unlisted (w : InstrWord)
  -- Rows without an operand
  /-- `0008`, `CLRT`: R216. -/
  | clrt
  /-- `0018`, `SETT`: R217. -/
  | sett
  /-- `0028`, `CLRMAC`: R218. -/
  | clrmac
  /-- `0048`, `CLRS`: R219. -/
  | clrs
  /-- `0058`, `SETS`: R220. -/
  | sets
  /-- `0088`, `CLRDQ`: R221. -/
  | clrdq
  /-- `0098`, `SETDQ`: R222. -/
  | setdq
  /-- `00A8`, `FLUSHTLB`: R223. -/
  | flushtlb
  /-- `00B8`, `INVTLB`: R224. -/
  | invtlb
  /-- `0009`, `NOP`: R225. -/
  | nop
  /-- `0019`, `DIV0U`: R226. -/
  | div0u
  /-- `000B`, `RTS`: R233. -/
  | rts
  /-- `001B`, `SLEEP`: R234. -/
  | sleep
  /-- `002B`, `RTE`: R235. -/
  | rte
  /-- `003B`, `BRK`: R236. -/
  | brk
  /-- `008B`, `LDFAT.L`: R237. -/
  | ldfatL
  /-- `009B`, `LDFAT.Q`: R238. -/
  | ldfatQ
  /-- `F3FD`, `FSCHG`: R456. -/
  | fschg
  /-- `0038`, `LDTLB`, not implemented: R153. -/
  | ldtlb
  /-- `0068`, `NOTT`, not implemented: R153. -/
  | nott
  /-- `005B`, `RESBANK`, not implemented: R153. -/
  | resbank
  /-- `006B`, `RTS/N`, not implemented: R153. -/
  | rtsN
  /-- `FBFD`, `FRCHG`, not implemented: R153. -/
  | frchg
  deriving DecidableEq, Repr

end Sys2Proof
end

