-- ==== Sys2Proof/WellFormed.lean ====
section
/-!
DEFINITION. Which terms of `Instr` are instructions of the opcode map: the three special cases of 30 R154 take the
displacement 0 out of their general rows, the words of the rows that name no instruction are those of 30 R150 to R152, and
the two fat `BSR` layouts name no instruction of this hardware (49 R478).
-/

namespace Sys2Proof

/-- Bits 15:12 of an instruction word (30 R141). -/
def nibble3 (w : InstrWord) : Nibble := w.extractLsb' 12 4

/-- Bits 11:8 of an instruction word (30 R141). -/
def nibble2 (w : InstrWord) : Nibble := w.extractLsb' 8 4

/-- Bits 7:4 of an instruction word (30 R141). -/
def nibble1 (w : InstrWord) : Nibble := w.extractLsb' 4 4

/-- Bits 3:0 of an instruction word (30 R141). -/
def nibble0 (w : InstrWord) : Nibble := w.extractLsb' 0 4

/-- Bits 7:0 of an instruction word. -/
def lowByte (w : InstrWord) : Byte := w.extractLsb' 0 8

/-- A word of one of the four blocks reserved for 32-bit operations (30 R151). -/
def reservedWord (w : InstrWord) : Bool :=
  (nibble3 w == 0x0 && (nibble0 w == 0x0 || nibble0 w == 0x1)) ||
  (nibble3 w == 0x3 && (nibble0 w == 0x1 || nibble0 w == 0x9))

/-- The low bytes of the unused slots `0-xx` (30 R150). -/
def unusedLow0 : List Byte := [0x62, 0x72, 0x13, 0x3A]

/-- The low bytes of the unused slots `4-xx` (30 R150). -/
def unusedLow4 : List Byte := [
    0x32, 0x42, 0x72, 0x82, 0x92, 0xA2, 0xB2, 0xC2, 0xD2, 0xE2, 0xF2, 0x63, 0x73, 0x14, 0x36, 0x46, 0x76, 0x86, 0x96,
    0xA6, 0xB6, 0xC6, 0xD6, 0xE6, 0xF6, 0x67, 0x77, 0x3A, 0x7A, 0x8A, 0x9A, 0xAA, 0xBA, 0xCA, 0xDA, 0xEA, 0xFA, 0x6E,
    0x7E, 0x34]

/-- A word of a slot that the source marks `-` or opens and leaves empty (30 R150). -/
def unusedWord (w : InstrWord) : Bool :=
  match nibble3 w with
  | 0x0#4 => unusedLow0.contains (lowByte w) || w == 0x004B
  | 0x4#4 => unusedLow4.contains (lowByte w)
  | 0x8#4 => nibble2 w == 0x2 || nibble2 w == 0xA || nibble2 w == 0xE
  | 0xF#4 =>
    lowByte w == 0xCD || lowByte w == 0xDD || nibble0 w == 0xF ||
      (lowByte w == 0xFD && nibble2 w != 0x3 && nibble2 w != 0xB)
  | _ => false

/-- The low bytes of the words `0-xx` without a row, whatever bits 11:8 hold (30 R152). -/
def unlistedLow0 : List Byte := [
    0x33, 0x43, 0x49, 0x53, 0x59, 0x63, 0x69, 0x73, 0x78, 0x79, 0x7A, 0x89, 0x8A, 0x99, 0x9A, 0xA9, 0xAA, 0xAB, 0xB9,
    0xBA, 0xBB, 0xC8, 0xC9, 0xCA, 0xCB, 0xD3, 0xD8, 0xD9, 0xDA, 0xDB, 0xE3, 0xE8, 0xE9, 0xEA, 0xEB, 0xF3, 0xF8, 0xF9,
    0xFA, 0xFB]

/-- The low bytes of the rows `00xx` that fix bits 11:8 to 0, so that another value there has no row (30 R152). -/
def fixedLow0 : List Byte := [
    0x08, 0x09, 0x0B, 0x18, 0x19, 0x1B, 0x28, 0x2B, 0x38, 0x3B, 0x48, 0x4B, 0x58, 0x5B, 0x68, 0x6B, 0x88, 0x8B, 0x98,
    0x9B, 0xA8, 0xB8]

/-- The low bytes of the words `4-xx` without a row (30 R152). -/
def unlistedLow4 : List Byte := [
    0x30, 0x31, 0x35, 0x38, 0x39, 0x3B, 0x40, 0x41, 0x45, 0x48, 0x49, 0x50, 0x51, 0x55, 0x58, 0x59, 0x5B, 0x60, 0x61,
    0x65, 0x68, 0x69, 0x6B, 0x70, 0x71, 0x75, 0x78, 0x79, 0x7B, 0x88, 0x89, 0x90, 0x98, 0x99, 0xA0, 0xA1, 0xA4, 0xA5,
    0xA8, 0xA9, 0xB0, 0xB1, 0xB4, 0xB5, 0xB8, 0xB9, 0xBB, 0xC0, 0xC1, 0xC4, 0xC5, 0xC8, 0xC9, 0xD0, 0xD1, 0xD4, 0xD5,
    0xD8, 0xD9, 0xE0, 0xE4, 0xE8, 0xE9, 0xF8, 0xF9, 0xFB]

/-- A word that has no row in the source at all (30 R152). -/
def unlistedWord (w : InstrWord) : Bool :=
  match nibble3 w with
  | 0x0#4 => unlistedLow0.contains (lowByte w) || (nibble2 w != 0x0 && fixedLow0.contains (lowByte w))
  | 0x4#4 => unlistedLow4.contains (lowByte w)
  | _ => false

/-- The terms that stand for a word, or a sequence of words, of the opcode map. Every row not named here admits every value
of its fields. -/
def Instr.wellFormed : Instr → Bool
  | .movWqStoreR0Disp _ d => d != 0x0
  | .movWqLoadR0Disp _ d => d != 0x0
  | .movWqLoadDisp _ d _ => d != 0x0
  | .fatBsr44 _ => false
  | .fatBsr60 _ => false
  | .unused w => unusedWord w
  | .reserved w => reservedWord w
  | .unlisted w => unlistedWord w
  | _ => true

end Sys2Proof
end

