-- ==== Sys2Proof/Decode.lean ====
section
/-!
DEFINITION. From bits to instructions and back: the decoder of one word (total: every word is an instruction, or one of the
rows that name none), the decoder of a sequence of words (a fat load takes three to five), and after them the encoder,
written from the same rows (30 R140 to R161, 49 R470 to R478).
-/

namespace Sys2Proof

/-- The rows of group `0---` (30 R148; file 30 R148, 40 of the spec): the instruction whose nibbles after the first are `b c d`, if
one has a row. -/
def decodeGroup0 (b c d : Nibble) : Option Instr :=
  match d with
  | 0x2#4 =>
    if c.msb then .some (.stcBank (c.setWidth 3) b) else
    match c with
    | 0x0#4 => .some (.stcSr b)
    | 0x1#4 => .some (.stcGbr b)
    | 0x2#4 => .some (.stcVbr b)
    | 0x3#4 => .some (.stcSsr b)
    | 0x4#4 => .some (.stcSpc b)
    | 0x5#4 => .some (.stcDbr b)
    | _ => none
  | 0x3#4 =>
    match c with
    | 0x0#4 => .some (.bsrf b)
    | 0x2#4 => .some (.bsaf b)
    | 0x8#4 => .some (.pref b)
    | 0x9#4 => .some (.ocbi b)
    | 0xA#4 => .some (.ocbp b)
    | 0xB#4 => .some (.ocbwb b)
    | 0xC#4 => .some (.movcaL b)
    | _ => none
  | 0x4#4 => .some (.movBStoreIdx c b)
  | 0x5#4 => .some (.movWqStoreIdx c b)
  | 0x6#4 => .some (.movLStoreIdx c b)
  | 0x7#4 => .some (.mulLq c b)
  | 0x8#4 =>
    match c with
    | 0x0#4 => if b = 0x0#4 then .some .clrt else none
    | 0x1#4 => if b = 0x0#4 then .some .sett else none
    | 0x2#4 => if b = 0x0#4 then .some .clrmac else none
    | 0x3#4 => if b = 0x0#4 then .some .ldtlb else none
    | 0x4#4 => if b = 0x0#4 then .some .clrs else none
    | 0x5#4 => if b = 0x0#4 then .some .sets else none
    | 0x6#4 => if b = 0x0#4 then .some .nott else none
    | 0x8#4 => if b = 0x0#4 then .some .clrdq else none
    | 0x9#4 => if b = 0x0#4 then .some .setdq else none
    | 0xA#4 => if b = 0x0#4 then .some .flushtlb else none
    | 0xB#4 => if b = 0x0#4 then .some .invtlb else none
    | _ => none
  | 0x9#4 =>
    match c with
    | 0x0#4 => if b = 0x0#4 then .some .nop else none
    | 0x1#4 => if b = 0x0#4 then .some .div0u else none
    | 0x2#4 => .some (.movt b)
    | 0x3#4 => .some (.movrt b)
    | _ => none
  | 0xA#4 =>
    match c with
    | 0x0#4 => .some (.stsMach b)
    | 0x1#4 => .some (.stsMacl b)
    | 0x2#4 => .some (.stsPr b)
    | 0x4#4 => .some (.stcTbr b)
    | 0x5#4 => .some (.stsFpul b)
    | 0x6#4 => .some (.stsFpscr b)
    | _ => none
  | 0xB#4 =>
    match c with
    | 0x0#4 => if b = 0x0#4 then .some .rts else none
    | 0x1#4 => if b = 0x0#4 then .some .sleep else none
    | 0x2#4 => if b = 0x0#4 then .some .rte else none
    | 0x3#4 => if b = 0x0#4 then .some .brk else none
    | 0x5#4 => if b = 0x0#4 then .some .resbank else none
    | 0x6#4 => if b = 0x0#4 then .some .rtsN else none
    | 0x7#4 => .some (.rtvN b)
    | 0x8#4 => if b = 0x0#4 then .some .ldfatL else none
    | 0x9#4 => if b = 0x0#4 then .some .ldfatQ else none
    | _ => none
  | 0xC#4 => .some (.movBLoadIdx c b)
  | 0xD#4 => .some (.movWqLoadIdx c b)
  | 0xE#4 => .some (.movLLoadIdx c b)
  | 0xF#4 => .some (.macL c b)
  | _ => none

/-- The rows of group `1---` (30 R148; file 41 of the spec): the instruction whose nibbles after the first are `b c d`, if
one has a row. -/
def decodeGroup1 (b c d : Nibble) : Option Instr :=
  .some (.movLStoreDisp c b d)

/-- The rows of group `2---` (30 R148; file 41 of the spec): the instruction whose nibbles after the first are `b c d`, if
one has a row. -/
def decodeGroup2 (b c d : Nibble) : Option Instr :=
  match d with
  | 0x0#4 => .some (.movBStore c b)
  | 0x1#4 => .some (.movWqStore c b)
  | 0x2#4 => .some (.movLStore c b)
  | 0x3#4 => .some (.casL c b)
  | 0x4#4 => .some (.movBPush c b)
  | 0x5#4 => .some (.movWqPush c b)
  | 0x6#4 => .some (.movLPush c b)
  | 0x7#4 => .some (.div0s c b)
  | 0x8#4 => .some (.tst c b)
  | 0x9#4 => .some (.and c b)
  | 0xA#4 => .some (.xor c b)
  | 0xB#4 => .some (.or c b)
  | 0xC#4 => .some (.cmpstr c b)
  | 0xD#4 => .some (.xtrct c b)
  | 0xE#4 => .some (.muluWl c b)
  | 0xF#4 => .some (.mulsWl c b)
  | _ => none

/-- The rows of group `3---` (30 R148; file 42 of the spec): the instruction whose nibbles after the first are `b c d`, if
one has a row. -/
def decodeGroup3 (b c d : Nibble) : Option Instr :=
  match d with
  | 0x0#4 => .some (.cmpeq c b)
  | 0x2#4 => .some (.cmphs c b)
  | 0x3#4 => .some (.cmpge c b)
  | 0x4#4 => .some (.div1 c b)
  | 0x5#4 => .some (.dmuluLq c b)
  | 0x6#4 => .some (.cmphi c b)
  | 0x7#4 => .some (.cmpgt c b)
  | 0x8#4 => .some (.sub c b)
  | 0xA#4 => .some (.subc c b)
  | 0xB#4 => .some (.subv c b)
  | 0xC#4 => .some (.add c b)
  | 0xD#4 => .some (.dmulsLq c b)
  | 0xE#4 => .some (.addc c b)
  | 0xF#4 => .some (.addv c b)
  | _ => none

/-- The rows of group `4---` (30 R148; file 43, 44 of the spec): the instruction whose nibbles after the first are `b c d`, if
one has a row. -/
def decodeGroup4 (b c d : Nibble) : Option Instr :=
  match d with
  | 0x0#4 =>
    match c with
    | 0x0#4 => .some (.shll b)
    | 0x1#4 => .some (.dt b)
    | 0x2#4 => .some (.shal b)
    | 0x8#4 => .some (.mulr b)
    | 0xF#4 => .some (.movmuPush b)
    | _ => none
  | 0x1#4 =>
    match c with
    | 0x0#4 => .some (.shlr b)
    | 0x1#4 => .some (.cmppz b)
    | 0x2#4 => .some (.shar b)
    | 0x8#4 => .some (.clipuB b)
    | 0x9#4 => .some (.clipsB b)
    | 0xE#4 => .some (.stbank b)
    | 0xF#4 => .some (.movmlPush b)
    | _ => none
  | 0x2#4 =>
    match c with
    | 0x0#4 => .some (.stsMachPush b)
    | 0x1#4 => .some (.stsMaclPush b)
    | 0x2#4 => .some (.stsPrPush b)
    | 0x5#4 => .some (.stsFpulPush b)
    | 0x6#4 => .some (.stsFpscrPush b)
    | _ => none
  | 0x3#4 =>
    if c.msb then .some (.stcBankPush (c.setWidth 3) b) else
    match c with
    | 0x0#4 => .some (.stcSrPush b)
    | 0x1#4 => .some (.stcGbrPush b)
    | 0x2#4 => .some (.stcVbrPush b)
    | 0x3#4 => .some (.stcSsrPush b)
    | 0x4#4 => .some (.stcSpcPush b)
    | 0x5#4 => .some (.stcDbrPush b)
    | _ => none
  | 0x4#4 =>
    match c with
    | 0x0#4 => .some (.rotl b)
    | 0x2#4 => .some (.rotcl b)
    | 0x4#4 => .some (.extuL b)
    | 0x5#4 => .some (.extsL b)
    | 0x6#4 => .some (.bswapL b)
    | 0x7#4 => .some (.bswapQ b)
    | 0x8#4 => .some (.swapL b)
    | 0x9#4 => .some (.divu b)
    | 0xF#4 => .some (.movmuPop b)
    | _ => none
  | 0x5#4 =>
    match c with
    | 0x0#4 => .some (.rotr b)
    | 0x1#4 => .some (.cmppl b)
    | 0x2#4 => .some (.rotcr b)
    | 0x8#4 => .some (.clipuW b)
    | 0x9#4 => .some (.clipsW b)
    | 0xE#4 => .some (.ldbank b)
    | 0xF#4 => .some (.movmlPop b)
    | _ => none
  | 0x6#4 =>
    match c with
    | 0x0#4 => .some (.ldsMachPop b)
    | 0x1#4 => .some (.ldsMaclPop b)
    | 0x2#4 => .some (.ldsPrPop b)
    | 0x5#4 => .some (.ldsFpulPop b)
    | 0x6#4 => .some (.ldsFpscrPop b)
    | _ => none
  | 0x7#4 =>
    if c.msb then .some (.ldcBankPop b (c.setWidth 3)) else
    match c with
    | 0x0#4 => .some (.ldcSrPop b)
    | 0x1#4 => .some (.ldcGbrPop b)
    | 0x2#4 => .some (.ldcVbrPop b)
    | 0x3#4 => .some (.ldcSsrPop b)
    | 0x4#4 => .some (.ldcSpcPop b)
    | 0x5#4 => .some (.ldcDbrPop b)
    | _ => none
  | 0x8#4 =>
    match c with
    | 0x0#4 => .some (.shll2 b)
    | 0x1#4 => .some (.shll8 b)
    | 0x2#4 => .some (.shll16 b)
    | _ => none
  | 0x9#4 =>
    match c with
    | 0x0#4 => .some (.shlr2 b)
    | 0x1#4 => .some (.shlr8 b)
    | 0x2#4 => .some (.shlr16 b)
    | _ => none
  | 0xA#4 =>
    match c with
    | 0x0#4 => .some (.ldsMach b)
    | 0x1#4 => .some (.ldsMacl b)
    | 0x2#4 => .some (.ldsPr b)
    | 0x4#4 => .some (.ldcTbr b)
    | 0x5#4 => .some (.ldsFpul b)
    | 0x6#4 => .some (.ldsFpscr b)
    | _ => none
  | 0xB#4 =>
    match c with
    | 0x0#4 => .some (.jsr b)
    | 0x1#4 => .some (.tasB b)
    | 0x2#4 => .some (.jmp b)
    | 0x4#4 => .some (.jsrN b)
    | 0x8#4 => .some (.movBR0Post b)
    | 0x9#4 => .some (.movWR0Post b)
    | 0xA#4 => .some (.movLR0Post b)
    | 0xC#4 => .some (.movBR0Pre b)
    | 0xD#4 => .some (.movWR0Pre b)
    | 0xE#4 => .some (.movLR0Pre b)
    | _ => none
  | 0xC#4 => .some (.shad c b)
  | 0xD#4 => .some (.shld c b)
  | 0xE#4 =>
    if c.msb then .some (.ldcBank b (c.setWidth 3)) else
    match c with
    | 0x0#4 => .some (.ldcSr b)
    | 0x1#4 => .some (.ldcGbr b)
    | 0x2#4 => .some (.ldcVbr b)
    | 0x3#4 => .some (.ldcSsr b)
    | 0x4#4 => .some (.ldcSpc b)
    | 0x5#4 => .some (.ldcDbr b)
    | _ => none
  | 0xF#4 => .some (.macWq c b)
  | _ => none

/-- The rows of group `5---` (30 R148; file 45 of the spec): the instruction whose nibbles after the first are `b c d`, if
one has a row. -/
def decodeGroup5 (b c d : Nibble) : Option Instr :=
  .some (.movLLoadDisp c d b)

/-- The rows of group `6---` (30 R148; file 45 of the spec): the instruction whose nibbles after the first are `b c d`, if
one has a row. -/
def decodeGroup6 (b c d : Nibble) : Option Instr :=
  match d with
  | 0x0#4 => .some (.movBLoad c b)
  | 0x1#4 => .some (.movWqLoad c b)
  | 0x2#4 => .some (.movLLoad c b)
  | 0x3#4 => .some (.mov c b)
  | 0x4#4 => .some (.movBPop c b)
  | 0x5#4 => .some (.movWqPop c b)
  | 0x6#4 => .some (.movLPop c b)
  | 0x7#4 => .some (.not c b)
  | 0x8#4 => .some (.swapB c b)
  | 0x9#4 => .some (.swapW c b)
  | 0xA#4 => .some (.negc c b)
  | 0xB#4 => .some (.neg c b)
  | 0xC#4 => .some (.extuB c b)
  | 0xD#4 => .some (.extsB c b)
  | 0xE#4 => .some (.extuW c b)
  | 0xF#4 => .some (.extsW c b)
  | _ => none

/-- The rows of group `7---` (30 R148; file 46 of the spec): the instruction whose nibbles after the first are `b c d`, if
one has a row. -/
def decodeGroup7 (b c d : Nibble) : Option Instr :=
  .some (.addImm (c ++ d) b)

/-- The rows of group `8---` (30 R148; file 46 of the spec): the instruction whose nibbles after the first are `b c d`, if
one has a row. -/
def decodeGroup8 (b c d : Nibble) : Option Instr :=
  match b with
  | 0x0#4 => .some (.movBStoreR0Disp c d)
  | 0x1#4 => if d = 0x0#4 then .some (.movWStoreR0 c) else .some (.movWqStoreR0Disp c d)
  | 0x3#4 => .some (.jsrN8 (c ++ d))
  | 0x4#4 => .some (.movBLoadR0Disp c d)
  | 0x5#4 => if d = 0x0#4 then .some (.movWLoadR0 c) else .some (.movWqLoadR0Disp c d)
  | 0x6#4 => .some (.bset (c ++ d))
  | 0x7#4 => .some (.bst (c ++ d))
  | 0x8#4 => .some (.cmpeqImm (c ++ d))
  | 0x9#4 => .some (.bt (c ++ d))
  | 0xB#4 => .some (.bf (c ++ d))
  | 0xC#4 => .some (.ldsh8 (c ++ d))
  | 0xD#4 => .some (.bts (c ++ d))
  | 0xF#4 => .some (.bfs (c ++ d))
  | _ => none

/-- The rows of group `9---` (30 R148; file 46 of the spec): the instruction whose nibbles after the first are `b c d`, if
one has a row. -/
def decodeGroup9 (b c d : Nibble) : Option Instr :=
  if d = 0x0#4 then .some (.movWLoad c b) else .some (.movWqLoadDisp c d b)

/-- The rows of group `A---` (30 R148; file 47 of the spec): the instruction whose nibbles after the first are `b c d`, if
one has a row. -/
def decodeGroupA (b c d : Nibble) : Option Instr :=
  .some (.bra (b ++ c ++ d))

/-- The rows of group `B---` (30 R148; file 47 of the spec): the instruction whose nibbles after the first are `b c d`, if
one has a row. -/
def decodeGroupB (b c d : Nibble) : Option Instr :=
  .some (.bsr (b ++ c ++ d))

/-- The rows of group `C---` (30 R148; file 47 of the spec): the instruction whose nibbles after the first are `b c d`, if
one has a row. -/
def decodeGroupC (b c d : Nibble) : Option Instr :=
  match b with
  | 0x0#4 => .some (.movBStoreGbr (c ++ d))
  | 0x1#4 => .some (.movWqStoreGbr (c ++ d))
  | 0x2#4 => .some (.movLStoreGbr (c ++ d))
  | 0x3#4 => .some (.trapa (c ++ d))
  | 0x4#4 => .some (.movBLoadGbr (c ++ d))
  | 0x5#4 => .some (.movWqLoadGbr (c ++ d))
  | 0x6#4 => .some (.movLLoadGbr (c ++ d))
  | 0x7#4 => .some (.mova (c ++ d))
  | 0x8#4 => .some (.tstImm (c ++ d))
  | 0x9#4 => .some (.andImm (c ++ d))
  | 0xA#4 => .some (.xorImm (c ++ d))
  | 0xB#4 => .some (.orImm (c ++ d))
  | 0xC#4 => .some (.tstB (c ++ d))
  | 0xD#4 => .some (.andB (c ++ d))
  | 0xE#4 => .some (.xorB (c ++ d))
  | 0xF#4 => .some (.orB (c ++ d))
  | _ => none

/-- The rows of group `D---` (30 R148; file 47 of the spec): the instruction whose nibbles after the first are `b c d`, if
one has a row. -/
def decodeGroupD (b c d : Nibble) : Option Instr :=
  .some (.movLqLoadPc (c ++ d) b)

/-- The rows of group `E---` (30 R148; file 47 of the spec): the instruction whose nibbles after the first are `b c d`, if
one has a row. -/
def decodeGroupE (b c d : Nibble) : Option Instr :=
  .some (.movImm (c ++ d) b)

/-- The rows of group `F---` (30 R148; file 48 of the spec): the instruction whose nibbles after the first are `b c d`, if
one has a row. -/
def decodeGroupF (b c d : Nibble) : Option Instr :=
  match d with
  | 0x0#4 => .some (.fadd c b)
  | 0x1#4 => .some (.fsub c b)
  | 0x2#4 => .some (.fmul c b)
  | 0x3#4 => .some (.fdiv c b)
  | 0x4#4 => .some (.fcmpeq c b)
  | 0x5#4 => .some (.fcmpgt c b)
  | 0x6#4 => .some (.fmovLoadIdx c b)
  | 0x7#4 => .some (.fmovStoreIdx c b)
  | 0x8#4 => .some (.fmovLoad c b)
  | 0x9#4 => .some (.fmovPop c b)
  | 0xA#4 => .some (.fmovStore c b)
  | 0xB#4 => .some (.fmovPush c b)
  | 0xC#4 => .some (.fmov c b)
  | 0xD#4 =>
    match c with
    | 0x0#4 => .some (.fsts b)
    | 0x1#4 => .some (.flds b)
    | 0x2#4 => .some (.float b)
    | 0x3#4 => .some (.ftrc b)
    | 0x4#4 => .some (.fneg b)
    | 0x5#4 => .some (.fabs b)
    | 0x6#4 => .some (.fsqrt b)
    | 0x7#4 => .some (.ftrv b)
    | 0x8#4 => .some (.fldi0 b)
    | 0x9#4 => .some (.fldi1 b)
    | 0xA#4 => .some (.fcnvsd b)
    | 0xB#4 => .some (.fcnvds b)
    | 0xE#4 => .some (.fipr b)
    | 0xF#4 => if b = 0x3#4 then .some .fschg else if b = 0xB#4 then .some .frchg else none
    | _ => none
  | 0xE#4 => .some (.fmac c b)
  | _ => none

/-- A word that no row of an instruction covers: a reserved block, an unused slot, or no row at all (30 R150 to R152). -/
def emptyWord (w : InstrWord) : Instr :=
  if reservedWord w then .reserved w else if unusedWord w then .unused w else .unlisted w

/-- The rows by leading nibble (30 R148). -/
def decodeGroup (a b c d : Nibble) : Option Instr :=
  match a with
  | 0x0#4 => decodeGroup0 b c d
  | 0x1#4 => decodeGroup1 b c d
  | 0x2#4 => decodeGroup2 b c d
  | 0x3#4 => decodeGroup3 b c d
  | 0x4#4 => decodeGroup4 b c d
  | 0x5#4 => decodeGroup5 b c d
  | 0x6#4 => decodeGroup6 b c d
  | 0x7#4 => decodeGroup7 b c d
  | 0x8#4 => decodeGroup8 b c d
  | 0x9#4 => decodeGroup9 b c d
  | 0xA#4 => decodeGroupA b c d
  | 0xB#4 => decodeGroupB b c d
  | 0xC#4 => decodeGroupC b c d
  | 0xD#4 => decodeGroupD b c d
  | 0xE#4 => decodeGroupE b c d
  | _ => decodeGroupF b c d

/-- The instruction of one word (30 R148 to R155). The two fat-load prefixes stand for themselves here. -/
def decodeWord (w : InstrWord) : Instr :=
  (decodeGroup (nibble3 w) (nibble2 w) (nibble1 w) (nibble0 w)).getD (emptyWord w)

/-- Why a sequence of words is not an instruction. -/
inductive DecodeError where
  /-- There is no word at all. -/
  | empty
  /-- A fat load whose later words are missing; the text is the mnemonic of its prefix word (49 R471). -/
  | truncated (mnemonic : String)
  deriving DecidableEq, Repr

/-- A fat load opened by `LDFAT.L`: the words after the prefix (49 R472, R475, R476). A second word without a layout leaves
the prefix alone (49 R477). -/
def decodeFatL (rest : List InstrWord) : Except DecodeError (Instr × List InstrWord) :=
  match rest with
  | [] => .ok (.ldfatL, [])
  | [w1] =>
    match nibble3 w1 with
    | 0xE#4 => .error (.truncated "LDFAT.L")
    | 0xA#4 => .error (.truncated "LDFAT.L")
    | 0xB#4 => .error (.truncated "LDFAT.L")
    | _ => .ok (.ldfatL, [w1])
  | w1 :: w2 :: tail =>
    match nibble3 w1 with
    | 0xE#4 => .ok (.ldfatMov24 (lowByte w1 ++ w2) (nibble2 w1), tail)
    | 0xA#4 => .ok (.ldfatBra (w1.extractLsb' 0 12 ++ w2), tail)
    | 0xB#4 => .ok (.ldfatBsr (w1.extractLsb' 0 12 ++ w2), tail)
    | _ => .ok (.ldfatL, w1 :: w2 :: tail)

/-- A fat load opened by `LDFAT.Q`: the words after the prefix; `odd` is `pc[1]` of the prefix (49 R471, R473, R474). -/
def decodeFatQ (odd : Bool) (rest : List InstrWord) : Except DecodeError (Instr × List InstrWord) :=
  match rest with
  | [] => .ok (.ldfatQ, [])
  | w1 :: more =>
    if nibble3 w1 = 0xE#4 then
      match odd, more with
      | false, w2 :: w3 :: tail => .ok (.ldfatMov40 (lowByte w1 ++ w2 ++ w3) (nibble2 w1), tail)
      | true, w2 :: w3 :: w4 :: tail => .ok (.ldfatMov56 (lowByte w1 ++ w2 ++ w3 ++ w4) (nibble2 w1), tail)
      | _, _ => .error (.truncated "LDFAT.Q")
    else .ok (.ldfatQ, w1 :: more)

/-- The first instruction of a sequence of words and the words after it; `odd` is `pc[1]` of the first word, which tells the
two lengths of a `LDFAT.Q` apart (49 R471). -/
def decode (odd : Bool) (ws : List InstrWord) : Except DecodeError (Instr × List InstrWord) :=
  match ws with
  | [] => .error .empty
  | w0 :: rest =>
    if w0 = 0x008B#16 then decodeFatL rest
    else if w0 = 0x009B#16 then decodeFatQ odd rest
    else .ok (decodeWord w0, rest)

/-- The instruction words that a sequence of bytes holds, lowest address first, in the little-endian order or the big-endian
one (30 R140, 20 R97). A last byte without a partner is no word. -/
def wordsOfBytes (little : Bool) : List Byte → List InstrWord
  | b0 :: b1 :: rest => (if little then b1 ++ b0 else b0 ++ b1) :: wordsOfBytes little rest
  | _ => []

/-- The first instruction that a sequence of bytes holds (30 R140). -/
def decodeBytes (little odd : Bool) (bytes : List Byte) : Except DecodeError Instr :=
  (decode odd (wordsOfBytes little bytes)).map Prod.fst

/-- The first `count` words of an instruction whose bits are `w`, numbered from the least significant bit of the first word. -/
def tableWords (count w : Nat) : List InstrWord :=
  (List.range count).map fun k => BitVec.ofNat 16 (w >>> (16 * k))

/-- The bytes of an instruction word in an order of the machine (30 R140). -/
def bytesOfWord (little : Bool) (w : InstrWord) : List Byte :=
  if little then [w.extractLsb' 0 8, w.extractLsb' 8 8] else [w.extractLsb' 8 8, w.extractLsb' 0 8]

/-- The parity of the place at which an instruction of `nbits` bits stands: only the five-word `LDFAT.Q` needs an odd word
index (49 R471). -/
def tableParity (nbits : Nat) : Bool := 80 ≤ nbits

/-- The instruction that the decoder reads from an instruction whose `nbits` bits are `w`, laid out in the big-endian order
of the machine after reset. -/
def decodeTableWord (nbits w : Nat) : Option Instr :=
  match decodeBytes false (tableParity nbits)
      ((tableWords 5 (w % 2 ^ nbits)).flatMap (bytesOfWord false)) with
  | .ok i => some i
  | .error _ => none

/-- The word of a one-word instruction (30 R141, R142), and the first word of the others: the prefix of a fat load. -/
def encodeWord : Instr → InstrWord
  | .stcSr n => word4 0x0#4 n 0x0#4 0x2#4
  | .stcGbr n => word4 0x0#4 n 0x1#4 0x2#4
  | .stcVbr n => word4 0x0#4 n 0x2#4 0x2#4
  | .stcSsr n => word4 0x0#4 n 0x3#4 0x2#4
  | .stcSpc n => word4 0x0#4 n 0x4#4 0x2#4
  | .stcDbr n => word4 0x0#4 n 0x5#4 0x2#4
  | .stcBank m n => word4 0x0#4 n (0b1#1 ++ m) 0x2#4
  | .bsrf m => word4 0x0#4 m 0x0#4 0x3#4
  | .bsaf m => word4 0x0#4 m 0x2#4 0x3#4
  | .pref n => word4 0x0#4 n 0x8#4 0x3#4
  | .movcaL n => word4 0x0#4 n 0xC#4 0x3#4
  | .movBStoreIdx m n => word4 0x0#4 n m 0x4#4
  | .movWqStoreIdx m n => word4 0x0#4 n m 0x5#4
  | .movLStoreIdx m n => word4 0x0#4 n m 0x6#4
  | .mulLq m n => word4 0x0#4 n m 0x7#4
  | .movt n => word4 0x0#4 n 0x2#4 0x9#4
  | .stsMach n => word4 0x0#4 n 0x0#4 0xA#4
  | .stsMacl n => word4 0x0#4 n 0x1#4 0xA#4
  | .stsPr n => word4 0x0#4 n 0x2#4 0xA#4
  | .stsFpul n => word4 0x0#4 n 0x5#4 0xA#4
  | .stsFpscr n => word4 0x0#4 n 0x6#4 0xA#4
  | .movBLoadIdx m n => word4 0x0#4 n m 0xC#4
  | .movWqLoadIdx m n => word4 0x0#4 n m 0xD#4
  | .movLLoadIdx m n => word4 0x0#4 n m 0xE#4
  | .macL m n => word4 0x0#4 n m 0xF#4
  | .movLStoreDisp m n d => word4 0x1#4 n m d
  | .movBStore m n => word4 0x2#4 n m 0x0#4
  | .movWqStore m n => word4 0x2#4 n m 0x1#4
  | .movLStore m n => word4 0x2#4 n m 0x2#4
  | .casL m n => word4 0x2#4 n m 0x3#4
  | .movBPush m n => word4 0x2#4 n m 0x4#4
  | .movWqPush m n => word4 0x2#4 n m 0x5#4
  | .movLPush m n => word4 0x2#4 n m 0x6#4
  | .div0s m n => word4 0x2#4 n m 0x7#4
  | .tst m n => word4 0x2#4 n m 0x8#4
  | .and m n => word4 0x2#4 n m 0x9#4
  | .xor m n => word4 0x2#4 n m 0xA#4
  | .or m n => word4 0x2#4 n m 0xB#4
  | .cmpstr m n => word4 0x2#4 n m 0xC#4
  | .xtrct m n => word4 0x2#4 n m 0xD#4
  | .muluWl m n => word4 0x2#4 n m 0xE#4
  | .mulsWl m n => word4 0x2#4 n m 0xF#4
  | .cmpeq m n => word4 0x3#4 n m 0x0#4
  | .cmphs m n => word4 0x3#4 n m 0x2#4
  | .cmpge m n => word4 0x3#4 n m 0x3#4
  | .div1 m n => word4 0x3#4 n m 0x4#4
  | .dmuluLq m n => word4 0x3#4 n m 0x5#4
  | .cmphi m n => word4 0x3#4 n m 0x6#4
  | .cmpgt m n => word4 0x3#4 n m 0x7#4
  | .sub m n => word4 0x3#4 n m 0x8#4
  | .subc m n => word4 0x3#4 n m 0xA#4
  | .subv m n => word4 0x3#4 n m 0xB#4
  | .add m n => word4 0x3#4 n m 0xC#4
  | .dmulsLq m n => word4 0x3#4 n m 0xD#4
  | .addc m n => word4 0x3#4 n m 0xE#4
  | .addv m n => word4 0x3#4 n m 0xF#4
  | .shll n => word4 0x4#4 n 0x0#4 0x0#4
  | .dt n => word4 0x4#4 n 0x1#4 0x0#4
  | .shal n => word4 0x4#4 n 0x2#4 0x0#4
  | .shlr n => word4 0x4#4 n 0x0#4 0x1#4
  | .cmppz n => word4 0x4#4 n 0x1#4 0x1#4
  | .shar n => word4 0x4#4 n 0x2#4 0x1#4
  | .stsMachPush n => word4 0x4#4 n 0x0#4 0x2#4
  | .stsMaclPush n => word4 0x4#4 n 0x1#4 0x2#4
  | .stsPrPush n => word4 0x4#4 n 0x2#4 0x2#4
  | .stsFpulPush n => word4 0x4#4 n 0x5#4 0x2#4
  | .stsFpscrPush n => word4 0x4#4 n 0x6#4 0x2#4
  | .stcSrPush n => word4 0x4#4 n 0x0#4 0x3#4
  | .stcGbrPush n => word4 0x4#4 n 0x1#4 0x3#4
  | .stcVbrPush n => word4 0x4#4 n 0x2#4 0x3#4
  | .stcSsrPush n => word4 0x4#4 n 0x3#4 0x3#4
  | .stcSpcPush n => word4 0x4#4 n 0x4#4 0x3#4
  | .stcDbrPush n => word4 0x4#4 n 0x5#4 0x3#4
  | .stcBankPush m n => word4 0x4#4 n (0b1#1 ++ m) 0x3#4
  | .rotl n => word4 0x4#4 n 0x0#4 0x4#4
  | .rotcl n => word4 0x4#4 n 0x2#4 0x4#4
  | .extuL n => word4 0x4#4 n 0x4#4 0x4#4
  | .extsL n => word4 0x4#4 n 0x5#4 0x4#4
  | .bswapL n => word4 0x4#4 n 0x6#4 0x4#4
  | .bswapQ n => word4 0x4#4 n 0x7#4 0x4#4
  | .swapL n => word4 0x4#4 n 0x8#4 0x4#4
  | .rotr n => word4 0x4#4 n 0x0#4 0x5#4
  | .cmppl n => word4 0x4#4 n 0x1#4 0x5#4
  | .rotcr n => word4 0x4#4 n 0x2#4 0x5#4
  | .ldsMachPop m => word4 0x4#4 m 0x0#4 0x6#4
  | .ldsMaclPop m => word4 0x4#4 m 0x1#4 0x6#4
  | .ldsPrPop m => word4 0x4#4 m 0x2#4 0x6#4
  | .ldsFpulPop m => word4 0x4#4 m 0x5#4 0x6#4
  | .ldsFpscrPop m => word4 0x4#4 m 0x6#4 0x6#4
  | .ldcSrPop m => word4 0x4#4 m 0x0#4 0x7#4
  | .ldcGbrPop m => word4 0x4#4 m 0x1#4 0x7#4
  | .ldcVbrPop m => word4 0x4#4 m 0x2#4 0x7#4
  | .ldcSsrPop m => word4 0x4#4 m 0x3#4 0x7#4
  | .ldcSpcPop m => word4 0x4#4 m 0x4#4 0x7#4
  | .ldcDbrPop m => word4 0x4#4 m 0x5#4 0x7#4
  | .ldcBankPop m n => word4 0x4#4 m (0b1#1 ++ n) 0x7#4
  | .shll2 n => word4 0x4#4 n 0x0#4 0x8#4
  | .shll8 n => word4 0x4#4 n 0x1#4 0x8#4
  | .shll16 n => word4 0x4#4 n 0x2#4 0x8#4
  | .shlr2 n => word4 0x4#4 n 0x0#4 0x9#4
  | .shlr8 n => word4 0x4#4 n 0x1#4 0x9#4
  | .shlr16 n => word4 0x4#4 n 0x2#4 0x9#4
  | .ldsMach m => word4 0x4#4 m 0x0#4 0xA#4
  | .ldsMacl m => word4 0x4#4 m 0x1#4 0xA#4
  | .ldsPr m => word4 0x4#4 m 0x2#4 0xA#4
  | .ldsFpul m => word4 0x4#4 m 0x5#4 0xA#4
  | .ldsFpscr m => word4 0x4#4 m 0x6#4 0xA#4
  | .jsr m => word4 0x4#4 m 0x0#4 0xB#4
  | .tasB m => word4 0x4#4 m 0x1#4 0xB#4
  | .jmp m => word4 0x4#4 m 0x2#4 0xB#4
  | .shad m n => word4 0x4#4 n m 0xC#4
  | .shld m n => word4 0x4#4 n m 0xD#4
  | .ldcSr m => word4 0x4#4 m 0x0#4 0xE#4
  | .ldcGbr m => word4 0x4#4 m 0x1#4 0xE#4
  | .ldcVbr m => word4 0x4#4 m 0x2#4 0xE#4
  | .ldcSsr m => word4 0x4#4 m 0x3#4 0xE#4
  | .ldcSpc m => word4 0x4#4 m 0x4#4 0xE#4
  | .ldcDbr m => word4 0x4#4 m 0x5#4 0xE#4
  | .ldcBank m n => word4 0x4#4 m (0b1#1 ++ n) 0xE#4
  | .macWq m n => word4 0x4#4 n m 0xF#4
  | .movLLoadDisp m d n => word4 0x5#4 n m d
  | .movBLoad m n => word4 0x6#4 n m 0x0#4
  | .movWqLoad m n => word4 0x6#4 n m 0x1#4
  | .movLLoad m n => word4 0x6#4 n m 0x2#4
  | .mov m n => word4 0x6#4 n m 0x3#4
  | .movBPop m n => word4 0x6#4 n m 0x4#4
  | .movWqPop m n => word4 0x6#4 n m 0x5#4
  | .movLPop m n => word4 0x6#4 n m 0x6#4
  | .not m n => word4 0x6#4 n m 0x7#4
  | .swapB m n => word4 0x6#4 n m 0x8#4
  | .swapW m n => word4 0x6#4 n m 0x9#4
  | .negc m n => word4 0x6#4 n m 0xA#4
  | .neg m n => word4 0x6#4 n m 0xB#4
  | .extuB m n => word4 0x6#4 n m 0xC#4
  | .extsB m n => word4 0x6#4 n m 0xD#4
  | .extuW m n => word4 0x6#4 n m 0xE#4
  | .extsW m n => word4 0x6#4 n m 0xF#4
  | .addImm i n => 0x7#4 ++ n ++ i
  | .movBStoreR0Disp n d => word4 0x8#4 0x0#4 n d
  | .movWqStoreR0Disp n d => word4 0x8#4 0x1#4 n d
  | .movWStoreR0 n => word4 0x8#4 0x1#4 n 0x0#4
  | .movBLoadR0Disp m d => word4 0x8#4 0x4#4 m d
  | .movWqLoadR0Disp m d => word4 0x8#4 0x5#4 m d
  | .movWLoadR0 m => word4 0x8#4 0x5#4 m 0x0#4
  | .cmpeqImm i => 0x8#4 ++ 0x8#4 ++ i
  | .bt d => 0x8#4 ++ 0x9#4 ++ d
  | .bf d => 0x8#4 ++ 0xB#4 ++ d
  | .ldsh8 i => 0x8#4 ++ 0xC#4 ++ i
  | .bts d => 0x8#4 ++ 0xD#4 ++ d
  | .bfs d => 0x8#4 ++ 0xF#4 ++ d
  | .movWqLoadDisp m d n => word4 0x9#4 n m d
  | .movWLoad m n => word4 0x9#4 n m 0x0#4
  | .bra d => 0xA#4 ++ d
  | .bsr d => 0xB#4 ++ d
  | .movBStoreGbr d => 0xC#4 ++ 0x0#4 ++ d
  | .movWqStoreGbr d => 0xC#4 ++ 0x1#4 ++ d
  | .movLStoreGbr d => 0xC#4 ++ 0x2#4 ++ d
  | .trapa j => 0xC#4 ++ 0x3#4 ++ j
  | .movBLoadGbr d => 0xC#4 ++ 0x4#4 ++ d
  | .movWqLoadGbr d => 0xC#4 ++ 0x5#4 ++ d
  | .movLLoadGbr d => 0xC#4 ++ 0x6#4 ++ d
  | .mova d => 0xC#4 ++ 0x7#4 ++ d
  | .tstImm j => 0xC#4 ++ 0x8#4 ++ j
  | .andImm j => 0xC#4 ++ 0x9#4 ++ j
  | .xorImm j => 0xC#4 ++ 0xA#4 ++ j
  | .orImm j => 0xC#4 ++ 0xB#4 ++ j
  | .tstB j => 0xC#4 ++ 0xC#4 ++ j
  | .andB j => 0xC#4 ++ 0xD#4 ++ j
  | .xorB j => 0xC#4 ++ 0xE#4 ++ j
  | .orB j => 0xC#4 ++ 0xF#4 ++ j
  | .movLqLoadPc d n => 0xD#4 ++ n ++ d
  | .movImm i n => 0xE#4 ++ n ++ i
  | .fadd m n => word4 0xF#4 n m 0x0#4
  | .fsub m n => word4 0xF#4 n m 0x1#4
  | .fmul m n => word4 0xF#4 n m 0x2#4
  | .fdiv m n => word4 0xF#4 n m 0x3#4
  | .fcmpeq m n => word4 0xF#4 n m 0x4#4
  | .fcmpgt m n => word4 0xF#4 n m 0x5#4
  | .fmovLoadIdx m n => word4 0xF#4 n m 0x6#4
  | .fmovStoreIdx m n => word4 0xF#4 n m 0x7#4
  | .fmovLoad m n => word4 0xF#4 n m 0x8#4
  | .fmovPop m n => word4 0xF#4 n m 0x9#4
  | .fmovStore m n => word4 0xF#4 n m 0xA#4
  | .fmovPush m n => word4 0xF#4 n m 0xB#4
  | .fmov m n => word4 0xF#4 n m 0xC#4
  | .fsts n => word4 0xF#4 n 0x0#4 0xD#4
  | .flds m => word4 0xF#4 m 0x1#4 0xD#4
  | .float n => word4 0xF#4 n 0x2#4 0xD#4
  | .ftrc m => word4 0xF#4 m 0x3#4 0xD#4
  | .fneg n => word4 0xF#4 n 0x4#4 0xD#4
  | .fabs n => word4 0xF#4 n 0x5#4 0xD#4
  | .fsqrt n => word4 0xF#4 n 0x6#4 0xD#4
  | .fldi0 n => word4 0xF#4 n 0x8#4 0xD#4
  | .fldi1 n => word4 0xF#4 n 0x9#4 0xD#4
  | .fcnvsd n => word4 0xF#4 n 0xA#4 0xD#4
  | .fcnvds m => word4 0xF#4 m 0xB#4 0xD#4
  | .fmac m n => word4 0xF#4 n m 0xE#4
  | .ldfatMov24 _ _ => 0x008B#16
  | .ldfatMov40 _ _ => 0x009B#16
  | .ldfatMov56 _ _ => 0x009B#16
  | .ldfatBra _ => 0x008B#16
  | .ldfatBsr _ => 0x008B#16
  | .fatBsr44 _ => 0x005B#16
  | .fatBsr60 _ => 0x005B#16
  | .ocbi x => word4 0x0#4 x 0x9#4 0x3#4
  | .ocbp x => word4 0x0#4 x 0xA#4 0x3#4
  | .ocbwb x => word4 0x0#4 x 0xB#4 0x3#4
  | .movrt x => word4 0x0#4 x 0x3#4 0x9#4
  | .stcTbr x => word4 0x0#4 x 0x4#4 0xA#4
  | .rtvN x => word4 0x0#4 x 0x7#4 0xB#4
  | .mulr x => word4 0x4#4 x 0x8#4 0x0#4
  | .movmuPush x => word4 0x4#4 x 0xF#4 0x0#4
  | .clipuB x => word4 0x4#4 x 0x8#4 0x1#4
  | .clipsB x => word4 0x4#4 x 0x9#4 0x1#4
  | .stbank x => word4 0x4#4 x 0xE#4 0x1#4
  | .movmlPush x => word4 0x4#4 x 0xF#4 0x1#4
  | .divu x => word4 0x4#4 x 0x9#4 0x4#4
  | .movmuPop x => word4 0x4#4 x 0xF#4 0x4#4
  | .clipuW x => word4 0x4#4 x 0x8#4 0x5#4
  | .clipsW x => word4 0x4#4 x 0x9#4 0x5#4
  | .ldbank x => word4 0x4#4 x 0xE#4 0x5#4
  | .movmlPop x => word4 0x4#4 x 0xF#4 0x5#4
  | .ldcTbr x => word4 0x4#4 x 0x4#4 0xA#4
  | .jsrN x => word4 0x4#4 x 0x4#4 0xB#4
  | .movBR0Post x => word4 0x4#4 x 0x8#4 0xB#4
  | .movWR0Post x => word4 0x4#4 x 0x9#4 0xB#4
  | .movLR0Post x => word4 0x4#4 x 0xA#4 0xB#4
  | .movBR0Pre x => word4 0x4#4 x 0xC#4 0xB#4
  | .movWR0Pre x => word4 0x4#4 x 0xD#4 0xB#4
  | .movLR0Pre x => word4 0x4#4 x 0xE#4 0xB#4
  | .jsrN8 x => 0x8#4 ++ 0x3#4 ++ x
  | .bset x => 0x8#4 ++ 0x6#4 ++ x
  | .bst x => 0x8#4 ++ 0x7#4 ++ x
  | .ftrv x => word4 0xF#4 x 0x7#4 0xD#4
  | .fipr x => word4 0xF#4 x 0xE#4 0xD#4
  | .unused w => w
  | .reserved w => w
  | .unlisted w => w
  | .clrt => word4 0x0#4 0x0#4 0x0#4 0x8#4
  | .sett => word4 0x0#4 0x0#4 0x1#4 0x8#4
  | .clrmac => word4 0x0#4 0x0#4 0x2#4 0x8#4
  | .clrs => word4 0x0#4 0x0#4 0x4#4 0x8#4
  | .sets => word4 0x0#4 0x0#4 0x5#4 0x8#4
  | .clrdq => word4 0x0#4 0x0#4 0x8#4 0x8#4
  | .setdq => word4 0x0#4 0x0#4 0x9#4 0x8#4
  | .flushtlb => word4 0x0#4 0x0#4 0xA#4 0x8#4
  | .invtlb => word4 0x0#4 0x0#4 0xB#4 0x8#4
  | .nop => word4 0x0#4 0x0#4 0x0#4 0x9#4
  | .div0u => word4 0x0#4 0x0#4 0x1#4 0x9#4
  | .rts => word4 0x0#4 0x0#4 0x0#4 0xB#4
  | .sleep => word4 0x0#4 0x0#4 0x1#4 0xB#4
  | .rte => word4 0x0#4 0x0#4 0x2#4 0xB#4
  | .brk => word4 0x0#4 0x0#4 0x3#4 0xB#4
  | .ldfatL => word4 0x0#4 0x0#4 0x8#4 0xB#4
  | .ldfatQ => word4 0x0#4 0x0#4 0x9#4 0xB#4
  | .fschg => word4 0xF#4 0x3#4 0xF#4 0xD#4
  | .ldtlb => word4 0x0#4 0x0#4 0x3#4 0x8#4
  | .nott => word4 0x0#4 0x0#4 0x6#4 0x8#4
  | .resbank => word4 0x0#4 0x0#4 0x5#4 0xB#4
  | .rtsN => word4 0x0#4 0x0#4 0x6#4 0xB#4
  | .frchg => word4 0xF#4 0xB#4 0xF#4 0xD#4

/-- The words of an instruction after its first: the operation word and the extension words of a fat layout (49 R472 to R476,
R478). -/
def encodeTail : Instr → List InstrWord
  | .ldfatMov24 imm n => [0xE#4 ++ n ++ imm.extractLsb' 16 8, imm.extractLsb' 0 16]
  | .ldfatMov40 imm n => [0xE#4 ++ n ++ imm.extractLsb' 32 8, imm.extractLsb' 16 16, imm.extractLsb' 0 16]
  | .ldfatMov56 imm n =>
    [0xE#4 ++ n ++ imm.extractLsb' 48 8, imm.extractLsb' 32 16, imm.extractLsb' 16 16, imm.extractLsb' 0 16]
  | .ldfatBra d => [0xA#4 ++ d.extractLsb' 16 12, d.extractLsb' 0 16]
  | .ldfatBsr d => [0xB#4 ++ d.extractLsb' 16 12, d.extractLsb' 0 16]
  | .fatBsr44 d => [0xB#4 ++ d.extractLsb' 32 12, d.extractLsb' 16 16, d.extractLsb' 0 16]
  | .fatBsr60 d => [0xB#4 ++ d.extractLsb' 48 12, d.extractLsb' 32 16, d.extractLsb' 16 16, d.extractLsb' 0 16]
  | _ => []

/-- The words of an instruction, the first at the lowest address. -/
def encode (i : Instr) : List InstrWord := encodeWord i :: encodeTail i

/-- The bits of an instruction as a number, bit 0 the least significant bit of its first word, as the opcode table numbers them. -/
def encodedBits (i : Instr) : Nat := (encode i).foldr (fun w n => w.toNat + 65536 * n) 0

/-- The parities of the prefix under which an instruction has its encoding: a `LDFAT.Q` carries 40 bits at an even word index
and 56 bits at an odd one (49 R471); every other instruction stands anywhere. -/
def Instr.standsAt (odd : Bool) : Instr → Bool
  | .ldfatMov40 _ _ => !odd
  | .ldfatMov56 _ _ => odd
  | _ => true

end Sys2Proof
end

