-- ==== Sys2Proof/Config.lean ====
section
/-!
DEFINITION. What an implementation fixes and what the spec leaves open: the types of the parameters of 00 R8 (and the causes of
trap entry, on which one of them depends), the free
values (constants without a body, which no proof can evaluate), the uninterpreted floating-point functions of 48 R431, and the
image of the start-up block.
-/

namespace Sys2Proof

/-- `BankSel`: a function from `SR` to the bank that numbers 0 to 7 name, as a tree of tests of its bits, so that it is plain
data (10 R23, R40, D4). -/
inductive BankSel where
  /-- Bank A. -/
  | bankA
  /-- Bank B. -/
  | bankB
  /-- One choice where a bit of `SR` is 1, another where it is 0. -/
  | test (bit : Fin 64) (ifSet ifClear : BankSel)
  deriving DecidableEq, Repr

/-- The number of words of the encoding of an instruction, some of its bits, numbered from the least significant bit of the first
word, and the values that they must have. A list of them is a set of instructions, and every set of instructions is one (60 R531,
log 24). -/
structure WordPattern where
  /-- The number of words: a fat load of four words and one of five may differ in nothing else. -/
  words : Nat
  /-- The bits that are looked at. -/
  mask : Nat
  /-- Their values. -/
  value : Nat
  deriving DecidableEq, Repr

/-- The operand roles of `CAS.L Rm, Rn, @R0` (41 R254, D30). -/
inductive CasRoles where
  /-- `Rm` is compared, `Rn` is stored and receives the old value: the pseudocode of 41 R254. -/
  | compareRm
  /-- `Rn` is compared and receives the old value, `Rm` is stored: the wording of D30. -/
  | compareRn
  deriving DecidableEq, Repr

/-- Which register of an even and odd FPU pair comes first (10 R58, 48 R458, `PairOrder`). -/
inductive PairOrder where
  /-- The even register comes first: the default. -/
  | evenFirst
  /-- The odd register comes first. -/
  | oddFirst
  deriving DecidableEq, Repr

/-- A width that the spec leaves open between 32 and 64 bits (48 R459). -/
inductive OpenWidth where
  /-- 32 bits. -/
  | w32
  /-- 64 bits. -/
  | w64
  deriving DecidableEq, Repr

/-- A width as a number of bits. -/
def OpenWidth.bits : OpenWidth → Nat
  | .w32 => 32
  | .w64 => 64

/-- Which floating-point functions the machine has (48 R431, D23). -/
inductive FpNumerics where
  /-- Functions of which nothing is known: the source says nothing of them. -/
  | uninterpreted
  /-- IEEE 754, the instance that 48 R431 calls the intended one, where R431 says what it answers. -/
  | ieee
  deriving DecidableEq, Repr

/-- What stands at an address (20 R93, R105, `Platform`). -/
inductive Area where
  /-- Memory that can be read and written. -/
  | ram
  /-- Memory that can only be read. -/
  | rom
  /-- Registers of a device that the spec does not describe. -/
  | device
  /-- Nothing: an access raises `AddressError` (60 R504 (c)). -/
  | absent
  deriving DecidableEq, Repr

/-- One range of addresses and what stands there (20 R93). Addresses are normalised 64-bit addresses read as numbers. -/
structure Region where
  /-- First address of the range. -/
  base : Nat
  /-- Number of bytes of the range. -/
  size : Nat
  /-- What stands there. -/
  area : Area
  deriving DecidableEq, Repr

/-- The kind of a memory access (60 R504). -/
inductive AccessKind where
  /-- A data load, a PC-relative load or a vector fetch. -/
  | read
  /-- A store. -/
  | write
  /-- An instruction fetch. -/
  | fetch
  deriving DecidableEq, Repr

/-- The causes of trap entry (60 R500). -/
inductive Cause where
  /-- 60 R501. -/
  | illegalInstruction
  /-- 60 R502. -/
  | slotIllegal
  /-- 60 R503. -/
  | fpuDisabled
  /-- 60 R504: the normalised address (DESIGN CHOICE, log 38) and the kind of access. -/
  | addressError (addr : BitVec 64) (kind : AccessKind)
  /-- 60 R505. -/
  | breakpoint
  /-- 60 R507. -/
  | trap (imm : BitVec 8)
  /-- 60 R506. -/
  | interrupt (level : BitVec 4)
  deriving DecidableEq, Repr

/-- The causes that one entry of the vector table is for (60 R514). -/
inductive VectorKey where
  /-- One cause. -/
  | only (c : Cause)
  /-- `AddressError` of one kind at every address. -/
  | addressErrors (kind : AccessKind)
  deriving DecidableEq, Repr

/-- One entry of `VecOffset`: causes, and their offsets from `VBR` in bytes for vectors of 4 and of 8 bytes (60 R513, R514). -/
structure VectorEntry where
  /-- The causes. -/
  key : VectorKey
  /-- The offset where a vector has 4 bytes. -/
  offset4 : BitVec 64
  /-- The offset where a vector has 8 bytes. -/
  offset8 : BitVec 64
  deriving DecidableEq, Repr

/-- The parameters that 00 R8 leaves to the model. They are plain data of the state, so that a statement about every state
is a statement about every value of the parameters (log 6). -/
structure Params where
  /-- `HasMMU`; a machine that has one is refused (20 R117, D22). -/
  hasMMU : Bool
  /-- `HasFatLoad` (49 R470, D26). -/
  hasFatLoad : Bool
  /-- `AllowAQwithoutDQ` (10 R62, D3). -/
  allowAQwithoutDQ : Bool
  /-- `EntrySetsBL` (60 R511, D12). -/
  entrySetsBL : Bool
  /-- `Privileged`: the instructions whose encodings match one of the patterns (60 R531, D6). -/
  privileged : List WordPattern
  /-- `BankSel` (10 R23, D4). -/
  bankSel : BankSel
  /-- The operand roles of `CAS.L` (41 R254, D30). -/
  casRoles : CasRoles
  /-- `PairOrder`: which register of a pair holds the high half of a split double (10 R58). -/
  pairHigh : PairOrder
  /-- `PairOrder`: which register of a pair is at the lower address (48 R458). -/
  pairLow : PairOrder
  /-- `FpulMoveBits` (48 R459, D25). -/
  fpulMoveBits : OpenWidth
  /-- `FpulIntBits` (48 R459, D25). -/
  fpulIntBits : OpenWidth
  /-- The instance of the functions `fp_*` (48 R431, D23, log 17). -/
  numerics : FpNumerics
  /-- `ICacheBlock` as a power of two: a block of executed code has 2^`icacheShift` bytes (20 R111, D21). -/
  icacheShift : Nat
  /-- `VecOffset` where it differs from the SH-2 instance of 60 R514; the first entry for a cause decides. -/
  vecOverride : List VectorEntry
  /-- `EndPC`, the address at which the launch lets a run end, if it names one (70 R578, D34). -/
  endPC : Option (BitVec 64)
  /-- `Platform`: the ranges it supplies; the first that holds an address decides (20 R93, D18). -/
  platform : List Region
  deriving DecidableEq, Repr

/-- A floating-point format (48 R430). -/
inductive FpFormat where
  /-- Binary32, mode `S`. -/
  | single
  /-- Binary64, modes `D2` and `D`. -/
  | double
  deriving DecidableEq, Repr

/-- The width of a format in bits (48 R430). -/
abbrev FpFormat.width : FpFormat → Nat
  | .single => 32
  | .double => 64

namespace Config

/-- The free values of the model, one for each draw: `UNDEF(32)` of 00 R12. It has no body, so nothing can be proved of a
value of it (log 1). -/
opaque freeWord32 : Nat → BitVec 32

/-- `fp_add` of 48 R431: format, `RM`, `DN`, the two operands. No body (log 17). -/
opaque fpAdd (f : FpFormat) (rm : BitVec 2) (dn : Bool) (a b : BitVec f.width) : BitVec f.width

/-- `fp_sub` of 48 R431. No body (log 17). -/
opaque fpSub (f : FpFormat) (rm : BitVec 2) (dn : Bool) (a b : BitVec f.width) : BitVec f.width

/-- `fp_mul` of 48 R431. No body (log 17). -/
opaque fpMul (f : FpFormat) (rm : BitVec 2) (dn : Bool) (a b : BitVec f.width) : BitVec f.width

/-- `fp_div` of 48 R431. No body (log 17). -/
opaque fpDiv (f : FpFormat) (rm : BitVec 2) (dn : Bool) (a b : BitVec f.width) : BitVec f.width

/-- `fp_sqrt` of 48 R431. No body (log 17). -/
opaque fpSqrt (f : FpFormat) (rm : BitVec 2) (dn : Bool) (a : BitVec f.width) : BitVec f.width

/-- `fp_mac` of 48 R431: the value of `a * b + c`. No body (log 17). -/
opaque fpMac (f : FpFormat) (rm : BitVec 2) (dn : Bool) (a b c : BitVec f.width) : BitVec f.width

/-- `fp_eq` of 48 R431. No body (log 17). -/
opaque fpEq (f : FpFormat) (dn : Bool) (a b : BitVec f.width) : Bool

/-- `fp_gt` of 48 R431. No body (log 17). -/
opaque fpGt (f : FpFormat) (dn : Bool) (a b : BitVec f.width) : Bool

/-- `fp_float` of 48 R431: an integer to a value of the format. No body (log 17). -/
opaque fpFloat (f : FpFormat) (rm : BitVec 2) (k : Int) : BitVec f.width

/-- `fp_trc` of 48 R431: a value of the format to an integer. No body (log 17). -/
opaque fpTrc (f : FpFormat) (a : BitVec f.width) : Int

/-- `fp_cnvsd` of 48 R431: binary32 to binary64. No body (log 17). -/
opaque fpCnvsd (dn : Bool) (a : BitVec 32) : BitVec 64

/-- `fp_cnvds` of 48 R431: binary64 to binary32. No body (log 17). -/
opaque fpCnvds (rm : BitVec 2) (dn : Bool) (a : BitVec 64) : BitVec 32

/-- The address of the start-up block (70 R560). -/
def startBlock : Nat := 0xFFFFFFFFA0000000

/-- The sixteen bytes of the start-up block: the first image of spec/97 section 4.4 (log 2). -/
def startImage : List Byte :=
  [0xA0, 0x00, 0x01, 0x00, 0x00, 0x01, 0x00, 0x00, 0x40, 0x00, 0x00, 0x00, 0x42, 0x4A, 0x30, 0x41]

/-- The default of `BankSel`: bank B exactly when `SR.MD` is 1 (10 R23). -/
def bankByMode : BankSel := .test 30 .bankB .bankA

/-- The default of `Privileged`, the rows that 60 R531 lists: `STC` and `STC.L/Q` from, `LDC` and `LDC.L/Q` to `SR`, `VBR`, `SSR`,
`SPC`, `DBR` and the inactive bank; `RTE`, `SLEEP`, `FLUSHTLB`, `INVTLB`: all of one word. -/
def conventionalPrivileged : List WordPattern :=
  [⟨1, 0xF0FF, 0x0002⟩, ⟨1, 0xF0FF, 0x0022⟩, ⟨1, 0xF0FF, 0x0032⟩, ⟨1, 0xF0FF, 0x0042⟩, ⟨1, 0xF0FF, 0x0052⟩, ⟨1, 0xF08F, 0x0082⟩,
   ⟨1, 0xF0FF, 0x4003⟩, ⟨1, 0xF0FF, 0x4023⟩, ⟨1, 0xF0FF, 0x4033⟩, ⟨1, 0xF0FF, 0x4043⟩, ⟨1, 0xF0FF, 0x4053⟩, ⟨1, 0xF08F, 0x4083⟩,
   ⟨1, 0xF0FF, 0x400E⟩, ⟨1, 0xF0FF, 0x402E⟩, ⟨1, 0xF0FF, 0x403E⟩, ⟨1, 0xF0FF, 0x404E⟩, ⟨1, 0xF0FF, 0x405E⟩, ⟨1, 0xF08F, 0x408E⟩,
   ⟨1, 0xF0FF, 0x4007⟩, ⟨1, 0xF0FF, 0x4027⟩, ⟨1, 0xF0FF, 0x4037⟩, ⟨1, 0xF0FF, 0x4047⟩, ⟨1, 0xF0FF, 0x4057⟩, ⟨1, 0xF08F, 0x4087⟩,
   ⟨1, 0xFFFF, 0x002B⟩, ⟨1, 0xFFFF, 0x001B⟩, ⟨1, 0xFFFF, 0x00A8⟩, ⟨1, 0xFFFF, 0x00B8⟩]

/-- The parameters of the machine after reset: the spec's default where it states one that leaves no instruction out, else
the value that the named log entry gives (log 6 to log 11, log 14, log 15, log 17). -/
def resetParams : Params where
  hasMMU := false
  hasFatLoad := true
  allowAQwithoutDQ := true
  entrySetsBL := false
  privileged := conventionalPrivileged
  bankSel := bankByMode
  casRoles := .compareRm
  pairHigh := .evenFirst
  pairLow := .evenFirst
  fpulMoveBits := .w32
  fpulIntBits := .w32
  numerics := .ieee
  icacheShift := 5
  vecOverride := []
  endPC := none
  platform := [⟨startBlock, 0x10000, .rom⟩]

end Config

end Sys2Proof
end

