-- ==== Sys2Proof/Machine/State.lean ====
section
/-!
DEFINITION. The state of the machine as plain data (10), the reasons a step can stop, and the state after reset. The operations that read and write it are in the other files of Machine.
-/

namespace Sys2Proof.Machine

/-- A 64-bit register whose halves can be undefined one without the other: a general register (10 R20, R25) or an FPU
register (10 R58). -/
structure Reg64 where
  /-- Bits 63:32. -/
  hi : BitVec 32
  /-- Bits 31:0. -/
  lo : BitVec 32
  deriving DecidableEq, Repr

/-- The flags that the executed-code restriction watches (20 R110). -/
structure ModeFlags where
  /-- `SR.DQ`. -/
  dq : Bool
  /-- `SR.AQ`. -/
  aq : Bool
  /-- `SR.LE`. -/
  le : Bool
  /-- `SR.ME`. -/
  me : Bool
  /-- `FPSCR.PR`. -/
  pr : Bool
  /-- `FPSCR.SZ`. -/
  sz : Bool
  deriving DecidableEq, Repr

/-- The tag of one executed address (10 R71). -/
structure XTag where
  /-- The normalised address of the instruction word. -/
  addr : Nat
  /-- The flags under which it was executed. -/
  flags : ModeFlags
  /-- Whether its block was written since. -/
  dirty : Bool
  deriving DecidableEq, Repr

/-- The pending branch of a delay slot (10 R70). -/
structure Slot where
  /-- The address at which execution goes on after the slot instruction. -/
  target : BitVec 64
  /-- The address of the branch that owns the slot, which 60 R512 saves (log 12). -/
  branch : BitVec 64
  deriving DecidableEq, Repr

/-- One interrupt request of the platform (60 R506). -/
structure IrqRequest where
  /-- The level, 0 to 15. -/
  level : BitVec 4
  /-- The source, which only the platform tells apart. -/
  source : Nat
  deriving DecidableEq, Repr

/-- The state of the machine. -/
structure State where
  /-- `R0..R7` of bank A, user (10 R22). -/
  bankA : Vector Reg64 8
  /-- `R0..R7` of bank B, supervisor (10 R22). -/
  bankB : Vector Reg64 8
  /-- `R8..R15`, the registers that exist once; the last is `SP` (10 R22). -/
  rh : Vector Reg64 8
  /-- `FR0..FR15` (10 R58). -/
  fr : Vector Reg64 16
  /-- The program counter (10 R27). -/
  pc : BitVec 64
  /-- The status register (10 R28). -/
  sr : BitVec 64
  /-- Global base register (10 R43). -/
  gbr : BitVec 64
  /-- Vector base register (10 R44). -/
  vbr : BitVec 64
  /-- Whether `VBR` was written since start-up, which a trap needs (60 R513, 70 R565). -/
  vbrWritten : Bool
  /-- Saved status register (10 R45). -/
  ssr : BitVec 64
  /-- Saved program counter (10 R46). -/
  spc : BitVec 64
  /-- Debug base register (10 R47). -/
  dbr : BitVec 64
  /-- Multiply-accumulate high (10 R48). -/
  mach : BitVec 64
  /-- Multiply-accumulate low (10 R49). -/
  macl : BitVec 64
  /-- Procedure register (10 R50). -/
  pr : BitVec 64
  /-- FPU control register (10 R51). -/
  fpscr : BitVec 64
  /-- FPU load register (10 R57). -/
  fpul : BitVec 64
  /-- The delay-slot latch (10 R70). -/
  slot : Option Slot
  /-- The tags of the executed addresses, by rising address (10 R71). -/
  xtag : List XTag
  /-- Whether `SLEEP` has stopped execution (10 R72). -/
  asleep : Bool
  /-- Memory, in the canonical form of Machine/Memory.lean (20 R90). -/
  mem : List Host.Cell
  /-- What the platform presents at the boundaries to come, one entry for each; after the list nothing (60 R506, log 13). -/
  irqInput : List (Option IrqRequest)
  /-- The model's own field: how many free values have been drawn (log 1). -/
  draws : Nat
  /-- The model's own field: the parameters of 00 R8 (log 6). No step changes it. -/
  params : Params
  deriving DecidableEq, Repr

/-- The reasons for which the machine stops with no defined next state. -/
inductive Fault where
  /-- Raised by the fetch: an address executed before under other mode flags, without an invalidation since (20 R110,
  60 R509). The hardware may do anything. Safe: the model goes no further. -/
  | undefinedFlags
  /-- Raised by the fetch: an address in an executed block that was written since, without a flush (20 R111, 60 R509). The
  hardware may do anything. Safe: the model goes no further. -/
  | undefinedModified
  /-- Raised by trap entry: the read of the vector raises `AddressError`, for which the spec has no double fault (60 R513).
  Safe: the model goes no further. -/
  | vectorFetch
  /-- Raised by trap entry: `VBR` was never written since start-up (60 R513, 70 R565). Safe: the model goes no further. -/
  | vectorBase
  deriving DecidableEq, Repr

/-- The reasons for which the model gives a step no meaning. -/
inductive Refusal where
  /-- Raised by an arm of `exec` that has no meaning yet. No arm answers it. Safe: the model goes no further. -/
  | notModelled (mnemonic : String)
  /-- Raised by every step, and by start-up, of a machine whose parameters give it an MMU (20 R117, D22). Safe. -/
  | mmu
  /-- Raised before the fetch: `SR.AQ` is 1, `SR.DQ` is 0, and the parameter forbids it (10 R62). Safe. -/
  | aqWithoutDq
  /-- Raised by an access to a range that holds registers of a device which the spec does not describe (20 R105). Safe. -/
  | deviceAccess
  /-- Raised by a store to read-only memory, whose effect the spec does not give (log 15). Safe. -/
  | romWrite
  /-- Raised by a fat-load prefix when the machine has no fat loads (49 R470). Safe. -/
  | fatLoadAbsent
  /-- Raised by an instruction of group `F---` with `FPSCR.FR` = 1 (48 R430, 10 R56). Safe. -/
  | fpuBank
  /-- Raised by an FPU calculation with `SR.AQ` = 1 and `FPSCR.PR` = 1, a reserved mode (48 R430). Safe. -/
  | fpuReservedMode
  /-- Raised by an odd FPU register field where a pair is needed (48 R430, R444, R458). Safe. -/
  | fpuOddPair
  /-- Raised by `FMOV.S` with `SR.AQ` = 1 and `FPSCR.SZ` = 0 (48 R458). Safe. -/
  | fpuMoveSize
  /-- Raised by `FLDI0`, `FLDI1` and `FMAC` in split-double mode (48 R452, R453, R457). Safe. -/
  | fpuSplitDouble
  /-- Raised by `FCNVSD` and `FCNVDS` in single mode (48 R454, R455). Safe. -/
  | fpuConvertSingle
  /-- Raised by `MAC.L` at a register width of 64 (40 R242, D29). Safe. -/
  | macLongWide
  /-- Raised by `MAC.W/Q` unless `SR.DQ` and `SR.AQ` are both 0 (44 R358, D29). Safe. -/
  | macWordWide
  /-- Raised by the step when the words at the program counter end inside an instruction. The fetch never leaves a step
  there; a lemma says so. Safe. -/
  | truncatedFetch
  /-- Raised by start-up: the magic reads correctly in neither byte order (70 R563). Safe. -/
  | startMagic
  /-- Raised by start-up: nothing that can be read stands at the start-up block (70 R563). Safe. -/
  | startAbsent
  /-- Raised by start-up: the starting program counter is odd (70 R563). Safe. -/
  | startOddPc
  deriving DecidableEq, Repr

/-- The state after reset: the state that the start-up sequence (70 R560) leaves on the image of Config, with the registers
that the spec leaves unspecified at the values of log 3. -/
def State.reset : State where
  bankA := Vector.replicate 8 ⟨0, 0⟩
  bankB := Vector.replicate 8 ⟨0, 0⟩
  rh := #v[⟨0, 0⟩, ⟨0, 0⟩, ⟨0, 0⟩, ⟨0, 0⟩, ⟨0, 0⟩, ⟨0, 0⟩, ⟨0, 0⟩, ⟨0, 0x00010000⟩]
  fr := Vector.replicate 16 ⟨0, 0⟩
  pc := 0xFFFFFFFFA0000100
  sr := 0x40000000
  gbr := 0
  vbr := 0
  vbrWritten := false
  ssr := 0
  spc := 0
  dbr := 0
  mach := 0
  macl := 0
  pr := 0
  fpscr := 0
  fpul := 0
  slot := none
  xtag := []
  asleep := false
  mem := []
  irqInput := []
  draws := 0
  params := Config.resetParams

end Sys2Proof.Machine
end

