-- ==== Sys2Proof/Machine/Flags.lean ====
section
/-!
DEFINITION. The fields of `SR` and `FPSCR` (10 R28 to R42, R51 to R56), the widths they select (00 R10, R11), and every flag
computation of the spec, each over an operand width `w` (00 R13).
-/

namespace Sys2Proof.Machine

/-- A value with one bit replaced. -/
def putBit (v : BitVec 64) (k : Nat) (b : Bool) : BitVec 64 :=
  if b then v ||| (1#64 <<< k) else v &&& ~~~(1#64 <<< k)

/-- `SR.T` (10 R29). -/
def State.t (s : State) : Bool := s.sr.getLsbD 0

/-- `SR.S` (10 R30). -/
def State.satur (s : State) : Bool := s.sr.getLsbD 1

/-- `SR.IM` (10 R31). -/
def State.im (s : State) : BitVec 4 := s.sr.extractLsb' 4 4

/-- `SR.Q` (10 R32). -/
def State.q (s : State) : Bool := s.sr.getLsbD 8

/-- `SR.M` (10 R33). -/
def State.m (s : State) : Bool := s.sr.getLsbD 9

/-- `SR.FD` (10 R34). -/
def State.fd (s : State) : Bool := s.sr.getLsbD 15

/-- `SR.DQ` (10 R35). -/
def State.dq (s : State) : Bool := s.sr.getLsbD 20

/-- `SR.AQ` (10 R36). -/
def State.aq (s : State) : Bool := s.sr.getLsbD 21

/-- `SR.LE` (10 R37). -/
def State.le (s : State) : Bool := s.sr.getLsbD 22

/-- `SR.ME` (10 R38). -/
def State.me (s : State) : Bool := s.sr.getLsbD 23

/-- `SR.BL` (10 R39). -/
def State.bl (s : State) : Bool := s.sr.getLsbD 28

/-- `SR.RB` (10 R40). -/
def State.rb (s : State) : Bool := s.sr.getLsbD 29

/-- `SR.MD` (10 R41): true is supervisor mode. -/
def State.md (s : State) : Bool := s.sr.getLsbD 30

/-- `FPSCR.RM` (10 R52). -/
def State.rm (s : State) : BitVec 2 := s.fpscr.extractLsb' 0 2

/-- `FPSCR.DN` (10 R53). -/
def State.dn (s : State) : Bool := s.fpscr.getLsbD 18

/-- `FPSCR.PR` (10 R54): true is split-double. -/
def State.fpPrec (s : State) : Bool := s.fpscr.getLsbD 19

/-- `FPSCR.SZ` (10 R55): true is a pair or a double. -/
def State.fpSize (s : State) : Bool := s.fpscr.getLsbD 20

/-- `FPSCR.FR` (10 R56). -/
def State.fpBank (s : State) : Bool := s.fpscr.getLsbD 21

/-- The state with `SR.T` replaced. -/
def State.putT (s : State) (b : Bool) : State := { s with sr := putBit s.sr 0 b }

/-- The state with `SR.S` replaced. -/
def State.putSatur (s : State) (b : Bool) : State := { s with sr := putBit s.sr 1 b }

/-- The state with `SR.Q` replaced. -/
def State.putQ (s : State) (b : Bool) : State := { s with sr := putBit s.sr 8 b }

/-- The state with `SR.M` replaced. -/
def State.putM (s : State) (b : Bool) : State := { s with sr := putBit s.sr 9 b }

/-- The state with `SR.DQ` replaced. -/
def State.putDQ (s : State) (b : Bool) : State := { s with sr := putBit s.sr 20 b }

/-- The state with `FPSCR.SZ` replaced. -/
def State.putFpSize (s : State) (b : Bool) : State := { s with fpscr := putBit s.fpscr 20 b }

/-- The flags that the executed-code restriction watches, as they stand (20 R110). -/
def State.modeFlags (s : State) : ModeFlags := ⟨s.dq, s.aq, s.le, s.me, s.fpPrec, s.fpSize⟩

/-- Whether registers are 64 bits wide: `SR.DQ` or `SR.AQ` is set (00 R11). -/
def State.wide (s : State) : Bool := s.dq || s.aq

/-- `W`, the operating width in bits (00 R11). -/
def State.W (s : State) : Nat := if s.wide then 64 else 32

/-- `szWQ`, the bytes of a `.W/Q` operand (00 R10). -/
def State.szWQ (s : State) : Nat := if s.dq then 8 else 2

/-- `szLQ`, the bytes of a `.L/Q` operand (00 R10). -/
def State.szLQ (s : State) : Nat := if s.wide then 8 else 4

/-- `szWL`, the bytes of a `.W/L` operand (00 R10). -/
def State.szWL (s : State) : Nat := if s.dq then 4 else 2

/-! The flag computations. Each answers the result and the flags it gives. -/

/-- Whether an exact signed result does not fit `w` bits: the overflow of 42 R279, R283. -/
def overflows (w : Nat) (v : Int) : Bool := decide (v < -2 ^ (w - 1)) || decide (2 ^ (w - 1) - 1 < v)

/-- A sum with a carry in, and its carry out (42 R282). -/
def addWithCarry {w : Nat} (a b : BitVec w) (carry : Bool) : BitVec w × Bool :=
  (BitVec.ofNat w (a.toNat + b.toNat + carry.toNat), decide (2 ^ w ≤ a.toNat + b.toNat + carry.toNat))

/-- A difference with a borrow in, and its borrow out (42 R278, 45 R376). -/
def subWithBorrow {w : Nat} (a b : BitVec w) (borrow : Bool) : BitVec w × Bool :=
  (BitVec.ofInt w ((a.toNat : Int) - b.toNat - borrow.toNat), decide (a.toNat < b.toNat + borrow.toNat))

/-- A signed sum and its overflow (42 R283). -/
def addWithOverflow {w : Nat} (a b : BitVec w) : BitVec w × Bool :=
  (BitVec.ofInt w (a.toInt + b.toInt), overflows w (a.toInt + b.toInt))

/-- A signed difference and its overflow (42 R279). -/
def subWithOverflow {w : Nat} (a b : BitVec w) : BitVec w × Bool :=
  (BitVec.ofInt w (a.toInt - b.toInt), overflows w (a.toInt - b.toInt))

/-- A shift left by one bit that takes a bit in at the bottom, and the bit shifted out (43 R290, R292, R308, R309). -/
def shiftLeftIn {w : Nat} (v : BitVec w) (bit : Bool) : BitVec w × Bool :=
  ((v <<< 1) ||| BitVec.ofNat w bit.toNat, v.msb)

/-- A shift right by one bit that takes a bit in at the top, and the bit shifted out (43 R293, R295, R315, R317). -/
def shiftRightIn {w : Nat} (v : BitVec w) (bit : Bool) : BitVec w × Bool :=
  ((v >>> 1) ||| (BitVec.ofNat w bit.toNat <<< (w - 1)), v.getLsbD 0)

/-- One step of a non-restoring division of `rn` by `rm`: the new `rn`, the new `Q` and the new `T` (42 R273). -/
def divideStep {w : Nat} (rn rm : BitVec w) (q m t : Bool) : BitVec w × Bool × Bool :=
  let r := (rn <<< 1) ||| BitVec.ofNat w t.toNat
  let r2 := if q = m then r - rm else r + rm
  let c := if q = m then decide (r.toNat < r2.toNat) else decide (r2.toNat < r.toNat)
  let q2 := (rn.msb ^^ c) ^^ m
  (r2, q2, q2 == m)

/-- Whether some byte of a value is zero: two operands with this exclusive or have a byte in common (41 R263). -/
def someByteZero {w : Nat} (v : BitVec w) : Bool :=
  (List.range (w / 8)).any fun k => v.extractLsb' (8 * k) 8 == 0#8

end Sys2Proof.Machine
end

