-- ==== Sys2Proof/Machine/Memory.lean ====
section
/-!
DEFINITION. Memory as a list of cells in one canonical form (addresses strictly rising, no cell that holds what an unlisted
address reads as), the byte orders and the assembly of values from bytes (20 R95 to R97), and the tags of executed code
(10 R71, 20 R110, R111).
-/

namespace Sys2Proof.Machine

/-- What a byte that the memory does not list reads as: the image in the start-up block, 0 elsewhere (70 R560, log 5). -/
def Memory.initial (a : Nat) : Byte :=
  if Config.startBlock ≤ a then Config.startImage.getD (a - Config.startBlock) 0 else 0

/-- The byte at an address. -/
def Memory.read : List Host.Cell → Nat → Byte
  | [], a => Memory.initial a
  | (x, b) :: rest, a => if x = a then b else Memory.read rest a

/-- A cell in front of cells with higher addresses, unless an unlisted address reads as it does. -/
def Memory.keep (a : Nat) (b : Byte) (rest : List Host.Cell) : List Host.Cell :=
  if b = Memory.initial a then rest else (a, b) :: rest

/-- The memory after a byte is stored. -/
def Memory.write : List Host.Cell → Nat → Byte → List Host.Cell
  | [], a, b => Memory.keep a b []
  | (x, c) :: rest, a, b =>
    if a < x then Memory.keep a b ((x, c) :: rest)
    else if a = x then Memory.keep a b rest
    else (x, c) :: Memory.write rest a b

/-- The canonical form of a memory. -/
abbrev Memory.wf (m : List Host.Cell) : Prop :=
  m.Pairwise (fun c d => c.1 < d.1) ∧ ∀ c ∈ m, c.2 ≠ Memory.initial c.1

/-- The bytes at `count` ascending addresses. -/
def Memory.readBytes (m : List Host.Cell) (a count : Nat) : List Byte :=
  (List.range count).map fun k => Memory.read m (a + k)

/-- The memory after bytes are stored at ascending addresses. -/
def Memory.writeBytes : List Host.Cell → Nat → List Byte → List Host.Cell
  | m, _, [] => m
  | m, a, b :: rest => Memory.writeBytes (Memory.write m a b) (a + 1) rest

/-- A byte order (20 R97). -/
inductive ByteOrder where
  /-- The byte at the lowest address is the most significant. -/
  | big
  /-- The byte at the lowest address is the least significant. -/
  | little
  deriving DecidableEq, Repr

/-- The number whose bytes are given, least significant first. -/
def littleValue : List Byte → Nat
  | [] => 0
  | b :: rest => b.toNat + 256 * littleValue rest

/-- The low bytes of a number, least significant first. -/
def littleBytes : Nat → Nat → List Byte
  | 0, _ => []
  | count + 1, v => BitVec.ofNat 8 v :: littleBytes count (v / 256)

/-- The value that bytes at ascending addresses hold in a byte order (20 R97). -/
def ByteOrder.value (o : ByteOrder) (bytes : List Byte) : Nat :=
  match o with
  | .little => littleValue bytes
  | .big => littleValue bytes.reverse

/-- The bytes at ascending addresses that hold the low `count` bytes of a value in a byte order (20 R97). -/
def ByteOrder.bytes (o : ByteOrder) (count v : Nat) : List Byte :=
  match o with
  | .little => littleBytes count v
  | .big => (littleBytes count v).reverse

/-- The tag of an address, if it was executed since the last invalidation (10 R71). -/
def Tags.find : List XTag → Nat → Option XTag
  | [], _ => none
  | t :: rest, a => if t.addr = a then some t else Tags.find rest a

/-- The tags after an address is executed: its tag is the given one, and addresses still rise (20 R110). -/
def Tags.record : List XTag → XTag → List XTag
  | [], n => [n]
  | t :: rest, n =>
    if n.addr < t.addr then n :: t :: rest
    else if n.addr = t.addr then n :: rest
    else t :: Tags.record rest n

/-- Whether two addresses lie in one block of 2^`shift` bytes (20 R111). -/
def sameBlock (shift a b : Nat) : Bool := a / 2 ^ shift == b / 2 ^ shift

/-- The tags after a store of `count` bytes: every tag in a block that a stored byte lies in becomes dirty (20 R111). -/
def Tags.mark (shift a count : Nat) (tags : List XTag) : List XTag :=
  tags.map fun t =>
    if (List.range count).any (fun k => sameBlock shift t.addr (a + k)) then { t with dirty := true } else t

/-- Whether an address lies in a block that was written since it was executed (20 R111). -/
def Tags.dirtyAt (shift a : Nat) (tags : List XTag) : Bool :=
  tags.any fun t => t.dirty && sameBlock shift t.addr a

end Sys2Proof.Machine
end

