-- ==== Sys2Proof/Machine/Operands.lean ====
section
/-!
DEFINITION. The operand forms: addresses and their normalisation (20 R91), the program counter's advance (10 R64), general
registers through the active bank (10 R23), the inactive bank (10 R24), the system and control registers (10 R26, R59), and
the FPU registers by calculation mode (48 R430). Every read and write of a register goes through this file.
-/

namespace Sys2Proof.Machine

/-! Addresses. -/

/-- `EA`: an address normalised under `SR.AQ` = `aq` (20 R91). -/
def normalise (aq : Bool) (a : BitVec 64) : BitVec 64 := if aq then a else (a.setWidth 32).signExtend 64

/-- `EA` under the `SR` in force (20 R91). -/
def State.ea (s : State) (a : BitVec 64) : BitVec 64 := normalise s.aq a

/-- The address `k` bytes after the instruction being executed (10 R64). -/
def State.pcPlus (s : State) (k : BitVec 64) : BitVec 64 := s.ea (s.pc + k)

/-- The base of a PC-relative data operand: 4 bytes after the instruction, rounded down to a multiple of 4 (20 R102). -/
def State.pcBase (s : State) : BitVec 64 := s.pcPlus 4 &&& ~~~3#64

/-- The address of a PC-relative data operand with an 8-bit displacement (20 R102). -/
def State.pcOperand (s : State) (d : BitVec 8) : BitVec 64 := s.ea (s.pcBase + 4 * d.setWidth 64)

/-- The target of a branch with a displacement in instruction words (70 R573), normalised here and again when the slot completes
(log 37). -/
def State.branchTarget (s : State) {w : Nat} (d : BitVec w) : BitVec 64 := s.pcPlus (4 + 2 * d.signExtend 64)

/-! General registers. -/

/-- A 64-bit register that holds a value. -/
def Reg64.ofBits (v : BitVec 64) : Reg64 := ⟨v.extractLsb' 32 32, v.extractLsb' 0 32⟩

/-- The low `w` bits of a register; 32 bits or fewer never look at the upper half (10 R25). -/
def Reg64.low (r : Reg64) (w : Nat) : BitVec w := if w ≤ 32 then r.lo.setWidth w else (r.hi ++ r.lo).setWidth w

/-- The place of a register number in its file of eight. -/
def low3 (i : Reg) : Fin 8 := ⟨i.toNat % 8, Nat.mod_lt _ (by decide)⟩

/-- Whether a function of `SR` selects bank B (10 R23). -/
def selectsBankB : BankSel → BitVec 64 → Bool
  | .bankA, _ => false
  | .bankB, _ => true
  | .test k p q, v => if v.getLsbD k then selectsBankB p v else selectsBankB q v

/-- `BankSel(SR)`: whether numbers 0 to 7 name bank B (10 R23). -/
def State.bankBActive (s : State) : Bool := selectsBankB s.params.bankSel s.sr

/-- The general register of a number where numbers 0 to 7 name bank B, or bank A (10 R22). -/
def State.regAt (s : State) (bankB : Bool) (i : Reg) : Reg64 :=
  if i.msb then s.rh.get (low3 i) else if bankB then s.bankB.get (low3 i) else s.bankA.get (low3 i)

/-- The general register of a number, whole (10 R22, R23). -/
def State.reg (s : State) (i : Reg) : Reg64 := s.regAt s.bankBActive i

/-- The state with the general register of a number replaced whole (10 R22, R23). -/
def State.putReg (s : State) (i : Reg) (r : Reg64) : State :=
  { s with
    rh := if i.msb then s.rh.set (low3 i) r else s.rh
    bankB := if !i.msb && s.bankBActive then s.bankB.set (low3 i) r else s.bankB
    bankA := if !i.msb && !s.bankBActive then s.bankA.set (low3 i) r else s.bankA }

/-- A register of the bank that numbers 0 to 7 do not name, where they name bank B, or bank A (10 R24). -/
def State.otherAt (s : State) (bankB : Bool) (i : BankReg) : Reg64 := if bankB then s.bankA.get i.toFin else s.bankB.get i.toFin

/-- A register of the inactive bank, whole (10 R24). -/
def State.otherReg (s : State) (i : BankReg) : Reg64 := s.otherAt s.bankBActive i

/-- The state with a register of the inactive bank replaced whole (10 R24). -/
def State.putOtherReg (s : State) (i : BankReg) (r : Reg64) : State :=
  { s with
    bankA := if s.bankBActive then s.bankA.set i.toNat r i.isLt else s.bankA
    bankB := if s.bankBActive then s.bankB else s.bankB.set i.toNat r i.isLt }

/-- The state after `k` free values are drawn (00 R12, log 1). -/
def State.drawn (s : State) (k : Nat) : State := { s with draws := s.draws + k }

/-- What a general register holds after a write of a value: all 64 bits when `W` is 64; bits 31:0, and a free value above
them, when `W` is 32 (10 R25). -/
def State.image (s : State) {w : Nat} (v : BitVec w) : Reg64 :=
  if s.wide then Reg64.ofBits (v.setWidth 64) else ⟨Config.freeWord32 s.draws, v.setWidth 32⟩

/-- How many free values a write of a general register draws (10 R25). -/
def State.imageDraws (s : State) : Nat := if s.wide then 0 else 1

/-- `x[i]`: the low `W` bits of a general register (00 R12). -/
def State.x (s : State) (i : Reg) : BitVec s.W := (s.reg i).low s.W

/-- `x[i] <- v` (00 R12, 10 R25). -/
def State.setX (s : State) (i : Reg) {w : Nat} (v : BitVec w) : State := (s.putReg i (s.image v)).drawn s.imageDraws

/-- Bits 31:0 of a general register replaced, bits 63:32 a free value, whatever `W` is (43 R312). -/
def State.setXLow (s : State) (i : Reg) (v : BitVec 32) : State := (s.putReg i ⟨Config.freeWord32 s.draws, v⟩).drawn 1

/-- A general register with both halves free values (43 R313, R314). -/
def State.setXFree (s : State) (i : Reg) : State :=
  (s.putReg i ⟨Config.freeWord32 s.draws, Config.freeWord32 (s.draws + 1)⟩).drawn 2

/-- `other_bank[i]`: the low `W` bits of a register of the inactive bank (40 R207). -/
def State.xOther (s : State) (i : BankReg) : BitVec s.W := (s.otherReg i).low s.W

/-- `other_bank[i] <- v` (44 R357). -/
def State.setXOther (s : State) (i : BankReg) {w : Nat} (v : BitVec w) : State :=
  (s.putOtherReg i (s.image v)).drawn s.imageDraws

/-! System and control registers. -/

/-- The system and control registers that instructions move (10 R59). -/
inductive Special where
  /-- `SR`. -/
  | sr
  /-- `GBR`. -/
  | gbr
  /-- `VBR`. -/
  | vbr
  /-- `SSR`. -/
  | ssr
  /-- `SPC`. -/
  | spc
  /-- `DBR`. -/
  | dbr
  /-- `MACH`. -/
  | mach
  /-- `MACL`. -/
  | macl
  /-- `PR`. -/
  | pr
  /-- `FPUL`. -/
  | fpul
  /-- `FPSCR`. -/
  | fpscr
  deriving DecidableEq, Repr

/-- A system or control register, whole. -/
def State.special (s : State) : Special → BitVec 64
  | .sr => s.sr
  | .gbr => s.gbr
  | .vbr => s.vbr
  | .ssr => s.ssr
  | .spc => s.spc
  | .dbr => s.dbr
  | .mach => s.mach
  | .macl => s.macl
  | .pr => s.pr
  | .fpul => s.fpul
  | .fpscr => s.fpscr

/-- What the FPU registers hold after `SR.AQ` changes: the upper halves are free values after it is set, the lower halves
after it is cleared (10 R58, log 16). -/
def State.redrawFpu (s : State) (aq : Bool) : Vector Reg64 16 :=
  Vector.ofFn fun k =>
    if aq then ⟨Config.freeWord32 (s.draws + k), (s.fr.get k).lo⟩ else ⟨(s.fr.get k).hi, Config.freeWord32 (s.draws + k)⟩

/-- The state with `SR` replaced whole; a change of `SR.AQ` redraws halves of the FPU registers (10 R58). -/
def State.putSR (s : State) (v : BitVec 64) : State :=
  { s with
    sr := v
    fr := if v.getLsbD 21 = s.aq then s.fr else s.redrawFpu (v.getLsbD 21)
    draws := if v.getLsbD 21 = s.aq then s.draws else s.draws + 16 }

/-- The state with a system or control register replaced whole; a write of `VBR`, of any width, is the one that 60 R513 waits for
(log 4). -/
def State.putSpecial (s : State) (r : Special) (v : BitVec 64) : State :=
  match r with
  | .sr => s.putSR v
  | .gbr => { s with gbr := v }
  | .vbr => { s with vbr := v, vbrWritten := true }
  | .ssr => { s with ssr := v }
  | .spc => { s with spc := v }
  | .dbr => { s with dbr := v }
  | .mach => { s with mach := v }
  | .macl => { s with macl := v }
  | .pr => { s with pr := v }
  | .fpul => { s with fpul := v }
  | .fpscr => { s with fpscr := v }

/-- What a system or control register that holds `old` holds after a write of `v`: all 64 bits when `W` is 64; bits 31:0,
with bits 63:32 retained, when `W` is 32 (10 R26). -/
def State.merge (s : State) (old : BitVec 64) {w : Nat} (v : BitVec w) : BitVec 64 :=
  if s.wide then v.setWidth 64 else old.extractLsb' 32 32 ++ v.setWidth 32

/-- A system or control register as an instruction reads it: its low `W` bits (10 R26). -/
def State.readSpecial (s : State) (r : Special) : BitVec s.W := (s.special r).setWidth s.W

/-- A system or control register written by an instruction or by trap entry (10 R26). -/
def State.writeSpecial (s : State) (r : Special) {w : Nat} (v : BitVec w) : State :=
  s.putSpecial r (s.merge (s.special r) v)

/-! FPU registers. -/

/-- The calculation modes (48 R430). -/
inductive FpMode where
  /-- Mode `S`: single precision. -/
  | single
  /-- Mode `D2`: double precision in a pair of registers. -/
  | split
  /-- Mode `D`: double precision in one register. -/
  | double
  deriving DecidableEq, Repr

/-- The format of a mode (48 R430). -/
abbrev FpMode.format : FpMode → FpFormat
  | .single => .single
  | .split => .double
  | .double => .double

/-- The calculation mode in force; none in the reserved combination `SR.AQ` = 1, `FPSCR.PR` = 1 (48 R430). -/
def State.fpMode? (s : State) : Option FpMode :=
  match s.aq, s.fpPrec with
  | false, false => some .single
  | false, true => some .split
  | true, false => some .double
  | true, true => none

/-- An FPU register, whole. -/
def State.freg (s : State) (i : FReg) : Reg64 := s.fr.get i.toFin

/-- The state with an FPU register replaced whole. -/
def State.putFreg (s : State) (i : FReg) (r : Reg64) : State := { s with fr := s.fr.set i.toNat r i.isLt }

/-- Bits 31:0 of an FPU register. -/
def State.f32 (s : State) (i : FReg) : BitVec 32 := (s.freg i).lo

/-- An FPU register of 64 bits. -/
def State.f64 (s : State) (i : FReg) : BitVec 64 := (s.freg i).hi ++ (s.freg i).lo

/-- Bits 31:0 of an FPU register replaced, bits 63:32 as they were (48 R444, R445). -/
def State.putF32 (s : State) (i : FReg) (v : BitVec 32) : State := s.putFreg i ⟨(s.freg i).hi, v⟩

/-- Bits 31:0 of an FPU register replaced, bits 63:32 a free value (48 R430, R445). -/
def State.setF32 (s : State) (i : FReg) (v : BitVec 32) : State := (s.putFreg i ⟨Config.freeWord32 s.draws, v⟩).drawn 1

/-- An FPU register of 64 bits replaced. -/
def State.setF64 (s : State) (i : FReg) (v : BitVec 64) : State := s.putFreg i (Reg64.ofBits v)

/-- The other register of the pair of an even register. -/
def pairPartner (i : FReg) : FReg := i ||| 1#4

/-- Of the pair of an even register, the one that comes first in an order, and the other (10 R58, 48 R458). -/
def pairRegisters (o : PairOrder) (i : FReg) : FReg × FReg :=
  match o with
  | .evenFirst => (i, pairPartner i)
  | .oddFirst => (pairPartner i, i)

/-- The register of a pair that holds the high half of a split double (10 R58). -/
def State.highOf (s : State) (i : FReg) : FReg := (pairRegisters s.params.pairHigh i).1

/-- The register of a pair that holds the low half of a split double (10 R58). -/
def State.lowOf (s : State) (i : FReg) : FReg := (pairRegisters s.params.pairHigh i).2

/-- `FV(i)`: an FPU operand in a calculation mode (48 R430). -/
def State.fv (s : State) : (m : FpMode) → FReg → BitVec m.format.width
  | .single, i => s.f32 i
  | .split, i => s.f32 (s.highOf i) ++ s.f32 (s.lowOf i)
  | .double, i => s.f64 i

/-- `FVset(i, v)`: an FPU result in a calculation mode (48 R430). -/
def State.fvSet (s : State) : (m : FpMode) → FReg → BitVec m.format.width → State
  | .single, i, v => s.setF32 i v
  | .split, i, v => (s.setF32 (s.highOf i) (v.extractLsb' 32 32)).setF32 (s.lowOf i) (v.extractLsb' 0 32)
  | .double, i, v => s.setF64 i v

/-- The state with the sign bit of an FPU operand replaced by a function of it, and no other bit changed (48 R449, R450). -/
def State.mapSign (s : State) (f : Bool → Bool) : FpMode → FReg → State
  | .single, i => s.putF32 i ((s.f32 i).setWidth 31 |>.cons (f (s.f32 i).msb))
  | .split, i => s.putF32 (s.highOf i) ((s.f32 (s.highOf i)).setWidth 31 |>.cons (f (s.f32 (s.highOf i)).msb))
  | .double, i => s.putFreg i ⟨(s.freg i).hi.setWidth 31 |>.cons (f (s.freg i).hi.msb), (s.freg i).lo⟩

/-- The bits of `FPUL` that `FSTS` and `FLDS` move (48 R459). -/
def State.fpulMove (s : State) : OpenWidth := if s.aq then s.params.fpulMoveBits else .w32

/-- The bits of `FPUL` that `FLOAT` and `FTRC` take as an integer (48 R459). -/
def State.fpulInt (s : State) : OpenWidth := if s.aq then s.params.fpulIntBits else .w32

/-- The state with the low bits of `FPUL` replaced and the others retained (48 R446, R448, R455). -/
def State.putFpulLow (s : State) (b : OpenWidth) (v : BitVec 64) : State :=
  { s with fpul := match b with
    | .w32 => s.fpul.extractLsb' 32 32 ++ v.setWidth 32
    | .w64 => v }

end Sys2Proof.Machine
end

