-- ==== Sys2Proof/Machine/Ops.lean ====
section
/-!
DEFINITION. The named operations: what stands at an address, memory reads and writes with their checks (20 R91 to R105,
00 R14), the checks that come before an instruction's own effect (60 R508), the ends of an instruction (60 R516), delayed
branches (10 R70), and trap entry and return as one operation each (60 R510 to R514, R520).
-/

namespace Sys2Proof.Machine

/-- How an instruction is abandoned. -/
inductive Abort where
  /-- A cause of trap entry, and the state at that moment: the state before the instruction, but for what the rule of the
  instruction names as done already (60 R504). -/
  | raise (c : Cause) (s : State)
  /-- A fault of the model. -/
  | fault (f : Fault)
  /-- A refusal of the model. -/
  | refuse (r : Refusal)
  deriving DecidableEq, Repr

/-! Memory. -/

/-- The local byte order, of register-relative data (20 R96). -/
def State.localOrder (s : State) : ByteOrder := if s.me ^^ s.le then .little else .big

/-- The machine byte order, of instructions, PC-relative data and vectors (20 R95). -/
def State.machineOrder (s : State) : ByteOrder := if s.me then .little else .big

/-- Whether bits 63:48 of a normalised address all equal bit 47 (20 R92). -/
def canonical (a : BitVec 64) : Bool := (a.setWidth 48).signExtend 64 == a

/-- What stands at an address when no region of the platform holds it, by the memory map (20 R93, R105, log 15). -/
def mapArea (a : Nat) : Area :=
  let m := a % 2 ^ 48
  if m < 0x800000000000 then .ram
  else if m < 0xC00000000000 then .device
  else if m < 0xFFFF80000000 then .absent
  else .device

/-- What stands at an address: the first region of the platform that holds it, else the memory map (20 R93). -/
def areaAt : List Region → Nat → Area
  | [], a => mapArea a
  | r :: rest, a => if r.base ≤ a ∧ a < r.base + r.size then r.area else areaAt rest a

/-- The areas of the bytes of an access. -/
def State.areas (s : State) (a : BitVec 64) (count : Nat) : List Area :=
  (List.range count).map fun k => areaAt s.params.platform (a.toNat + k)

/-- The checks of an access of `count` bytes at a normalised address that must be a multiple of `align`: alignment, a
canonical address and something present there raise `AddressError`; a device, or a store to read-only memory, is refused
(20 R92, R101, R103, R105, 60 R504). The cause carries that normalised address, where the rules leave open whether it is the one
before `EA` (DESIGN CHOICE, log 38). -/
def State.checkAccess (s : State) (kind : AccessKind) (a : BitVec 64) (count align : Nat) : Except Abort Unit :=
  if a.toNat % align ≠ 0 ∨ canonical a = false ∨ Area.absent ∈ s.areas a count then
    .error (.raise (.addressError a kind) s)
  else if Area.device ∈ s.areas a count then .error (.refuse .deviceAccess)
  else if kind = .write ∧ Area.rom ∈ s.areas a count then .error (.refuse .romWrite)
  else .ok ()

/-- The value of `count` bytes at a normalised address in a byte order (20 R97). -/
def State.valueAt (s : State) (o : ByteOrder) (a : BitVec 64) (count : Nat) : BitVec (8 * count) :=
  BitVec.ofNat (8 * count) (o.value (Memory.readBytes s.mem a.toNat count))

/-- A read of `count` bytes at `EA(a)` in a byte order (00 R14: `MemRead`, `MemReadM`). -/
def State.readMem (s : State) (o : ByteOrder) (a : BitVec 64) (count : Nat) : Except Abort (BitVec (8 * count)) := do
  s.checkAccess .read (s.ea a) count count
  pure (s.valueAt o (s.ea a) count)

/-- The state after the low `count` bytes of a value are stored at a normalised address in a byte order; executed blocks that
they lie in become dirty (20 R97, R111). -/
def State.putBytes (s : State) (o : ByteOrder) (a : BitVec 64) (count v : Nat) : State :=
  { s with
    mem := Memory.writeBytes s.mem a.toNat (o.bytes count v)
    xtag := Tags.mark s.params.icacheShift a.toNat count s.xtag }

/-- A write of the low `count` bytes of a value at `EA(a)` in a byte order (00 R14: `MemWrite`). -/
def State.writeMem (s : State) (o : ByteOrder) (a : BitVec 64) (count : Nat) {w : Nat} (v : BitVec w) :
    Except Abort State := do
  s.checkAccess .write (s.ea a) count count
  pure (s.putBytes o (s.ea a) count v.toNat)

/-- A register-relative load: `count` bytes in the local byte order, sign-extended to `W` bits (20 R96, R119). -/
def State.load (s : State) {w : Nat} (a : BitVec w) (count : Nat) : Except Abort (BitVec s.W) := do
  let v ← s.readMem s.localOrder (a.setWidth 64) count
  pure (v.signExtend s.W)

/-- A register-relative store of the low `count` bytes of a value in the local byte order (20 R96). -/
def State.store (s : State) {wa : Nat} (a : BitVec wa) (count : Nat) {w : Nat} (v : BitVec w) : Except Abort State :=
  s.writeMem s.localOrder (a.setWidth 64) count v

/-- A PC-relative load, in the machine byte order: 4 bytes, or 8 bytes as two DWords in ascending address order, at an
address that is a multiple of 4 (20 R95, R102, R104; 47 R423; log 19). -/
def State.loadPc (s : State) (a : BitVec 64) : Except Abort (BitVec s.W) := do
  if s.wide then
    let first ← s.readMem s.machineOrder a 4
    let second ← s.readMem s.machineOrder (a + 4) 4
    let v : BitVec 64 := match s.machineOrder with
      | .big => first.setWidth 32 ++ second.setWidth 32
      | .little => second.setWidth 32 ++ first.setWidth 32
    pure (v.setWidth s.W)
  else
    let v ← s.readMem s.machineOrder a 4
    pure (v.signExtend s.W)

/-! Trap entry and return. -/

/-- The vector numbers of the SH-2 family, the one instance that 60 R514 offers (log 11). -/
def sh2Number : Cause → BitVec 64
  | .illegalInstruction => 4
  | .slotIllegal => 6
  | .fpuDisabled => 13
  | .addressError _ _ => 9
  | .breakpoint => 12
  | .trap imm => imm.setWidth 64
  | .interrupt level => 64 + level.setWidth 64

/-- Whether a cause is one of those of a key (60 R514). -/
def vectorKeyTakes (k : VectorKey) (c : Cause) : Bool :=
  match k, c with
  | .only d, c => d == c
  | .addressErrors kind, .addressError _ kind' => kind == kind'
  | .addressErrors _, _ => false

/-- The first entry of a vector table for a cause, if it has one (60 R514). -/
def vectorEntry : List VectorEntry → Cause → Option VectorEntry
  | [], _ => none
  | e :: rest, c => if vectorKeyTakes e.key c then some e else vectorEntry rest c

/-- `VecBytes`: the size of a vector (60 R513). -/
def State.vecBytes (s : State) : Nat := if s.aq then 8 else 4

/-- `VecOffset`: the offset of a cause's vector from `VBR` (60 R514). -/
def State.vecOffset (s : State) (c : Cause) : BitVec 64 :=
  match vectorEntry s.params.vecOverride c with
  | some e => if s.aq then e.offset8 else e.offset4
  | none => sh2Number c * BitVec.ofNat 64 s.vecBytes

/-- The address saved in `SPC`: after a `TRAPA` the next instruction; for an interrupt the instruction not yet started; for
every other cause the instruction itself, or the branch whose delay slot it stands in (60 R512). -/
def State.returnAddress (s : State) (c : Cause) : BitVec 64 :=
  match c, s.slot with
  | .trap _, _ => s.pcPlus 2
  | .interrupt _, _ => s.pc
  | _, some sl => sl.branch
  | _, none => s.pc

/-- Trap entry up to the vector fetch: `SPC` and `SSR` saved, supervisor mode, interrupts blocked if `EntrySetsBL`, no slot,
awake (60 R510 steps 1 to 4, R511). -/
def State.saveContext (s : State) (c : Cause) : State :=
  { s with
    spc := s.merge s.spc (s.returnAddress c)
    ssr := s.merge s.ssr s.sr
    sr := if s.params.entrySetsBL then putBit (putBit s.sr 30 true) 28 true else putBit s.sr 30 true
    slot := none
    asleep := false }

/-- The address of a cause's vector (60 R513). -/
def State.vectorAddress (s : State) (c : Cause) : BitVec 64 := (s.readSpecial .vbr).setWidth 64 + s.vecOffset c

/-- Trap entry (60 R510): the context saved, then the handler's address read in the machine byte order; if `VBR` was never written
since start-up, or that read raises `AddressError`, the model stops (60 R513). -/
def trapEntry (c : Cause) (s : State) : Host.Outcome State Fault Refusal :=
  if s.vbrWritten then
    let t := s.saveContext c
    match t.readMem t.machineOrder (t.vectorAddress c) t.vecBytes with
    | .ok v => .next { t with pc := t.ea (v.signExtend 64) }
    | .error (.raise _ _) => .fault .vectorFetch
    | .error (.fault f) => .fault f
    | .error (.refuse r) => .refused r
  else .fault .vectorBase

/-- The end of an instruction that was abandoned. -/
def Abort.outcome : Abort → Host.Outcome State Fault Refusal
  | .raise c s => trapEntry c s
  | .fault f => .fault f
  | .refuse r => .refused r

/-! The ends of an instruction. -/

/-- The advance past an instruction of `len` bytes: to the pending target of a delay slot, normalised under the `SR` that the slot
instruction leaves, else to the next instruction (10 R64, R70, 60 R516, log 37). -/
def State.advance (s : State) (len : BitVec 64 := 2) : State :=
  { s with
    pc := match s.slot with
      | some sl => s.ea sl.target
      | none => s.pcPlus len
    slot := none }

/-- A delayed branch of `len` bytes: the target is pending, the next instruction is the delay slot (10 R70, 70 R570). -/
def State.delayTo (s : State) (target : BitVec 64) (len : BitVec 64 := 2) : State :=
  { s with slot := some ⟨target, s.pc⟩, pc := s.pcPlus len }

/-- The outcome of an instruction whose body says itself where the program counter goes. -/
def settle (r : Except Abort State) : Host.Outcome State Fault Refusal :=
  match r with
  | .ok t => .next t
  | .error e => e.outcome

/-- The outcome of an instruction of `len` bytes after whose body the program counter advances. -/
def finish (r : Except Abort State) (len : BitVec 64 := 2) : Host.Outcome State Fault Refusal :=
  match r with
  | .ok t => .next (t.advance len)
  | .error e => e.outcome

/-- `EA(t)` as the target of a delayed branch to a value of a register (44 R346), zero-extended to 64 bits before `EA` takes it.
The spec does not say how 32 bits become 64 where `EA` takes all of them, which happens only when an `RTE` at `W` = 32 restores
`SR.AQ` = 1: the model's choice (log 20). The target is normalised here and again when the slot completes (log 37). -/
def State.jumpTarget (s : State) {w : Nat} (v : BitVec w) : BitVec 64 := s.ea (v.setWidth 64)

/-- Return from an exception: `SR` restored at once, then a delayed branch to the saved program counter, normalised under the
restored `SR` (60 R520). It is read at the width in force before; read in 32 bits, and with `SR.AQ` = 1 restored, it is
zero-extended to 64 bits, which the spec leaves open (log 20). -/
def State.returnFromException (s : State) : State :=
  let s1 := s.writeSpecial .sr (s.readSpecial .ssr)
  s1.delayTo (s1.jumpTarget (s.readSpecial .spc))

/-! The checks before an instruction's own effect, in the order of 60 R508. -/

/-- A check that raises a cause in the state before the instruction. -/
def State.require (s : State) (ok : Bool) (c : Cause) : Except Abort Unit :=
  if ok then .ok () else .error (.raise c s)

/-- A check that the model refuses to pass. -/
def demand (ok : Bool) (r : Refusal) : Except Abort Unit :=
  if ok then .ok () else .error (.refuse r)

/-- Whether an instruction's encoding is one of a set (60 R531). -/
def isIn (set : List WordPattern) (i : Instr) : Bool :=
  set.any fun p => (encode i).length == p.words && encodedBits i &&& p.mask == p.value

/-- Whether the core may run an instruction: in supervisor mode every one, in user mode those that are not privileged (60 R531). -/
def State.mayRun (s : State) (i : Instr) : Bool := s.md || !isIn s.params.privileged i

/-- Privilege: a privileged instruction in user mode raises `IllegalInstruction` (60 R531). -/
def State.requirePrivilege (s : State) (i : Instr) : Except Abort Unit := s.require (s.mayRun i) .illegalInstruction

/-- The delay-slot restriction: an instruction that 70 R571 forbids there raises `SlotIllegal`. -/
def State.requireNoSlot (s : State) : Except Abort Unit := s.require s.slot.isNone .slotIllegal

/-- `SR.FD`: an FPU instruction, or a move of `FPUL` or `FPSCR`, raises `FpuDisabled` (60 R503). -/
def State.requireFpu (s : State) : Except Abort Unit := s.require (!s.fd) .fpuDisabled

/-- What every instruction of group `F---` needs: `SR.FD` = 0, and `FPSCR.FR` = 0 (48 R430). -/
def State.requireFpuGroup (s : State) : Except Abort Unit := do
  s.requireFpu
  demand (!s.fpBank) .fpuBank

/-- The calculation mode, which the reserved combination does not have (48 R430). -/
def State.requireFpMode (s : State) : Except Abort FpMode :=
  match s.fpMode? with
  | some m => .ok m
  | none => .error (.refuse .fpuReservedMode)

/-- An FPU operand field: in split-double mode it must be even (48 R430). -/
def requireOperand (m : FpMode) (i : FReg) : Except Abort Unit := demand (m != .split || !i.getLsbD 0) .fpuOddPair

/-- What every fat-load form needs: not in a delay slot, and a machine that has them (49 R470). -/
def State.requireFatLoad (s : State) : Except Abort Unit := do
  s.requireNoSlot
  demand s.params.hasFatLoad .fatLoadAbsent

/-! Shared meanings: each instruction of the family files is one of these, or a few lines of its own. -/

/-- The trap entry of a word that names no instruction (30 R153). -/
def execIllegal (s : State) : Host.Outcome State Fault Refusal := trapEntry .illegalInstruction s

/-- A load into a general register (20 R119). -/
def State.loadInto (s : State) {w : Nat} (a : BitVec w) (count : Nat) (n : Reg) : Host.Outcome State Fault Refusal :=
  finish do
    let v ← s.load a count
    pure (s.setX n v)

/-- A store at an address of `W` bits. -/
def State.storeAt (s : State) (a : BitVec s.W) (count : Nat) (v : BitVec s.W) : Host.Outcome State Fault Refusal :=
  finish (s.store a count v)

/-- A pre-decrement store: the value goes below the address register, which then points at it; a store that raises leaves
the register (41 R255, 43 R296, D37). -/
def State.pushAt (s : State) (n : Reg) (count : Nat) (v : BitVec s.W) : Except Abort State := do
  let a := s.x n - BitVec.ofNat s.W count
  let s1 ← s.store a count v
  pure (s1.setX n a)

/-- A post-increment load, the value not yet placed: the value, and the state with the address register moved past it; a load
that raises leaves the register (45 R370, 43 R318, D37). -/
def State.popAt (s : State) (m : Reg) (count : Nat) : Except Abort (BitVec s.W × State) := do
  let v ← s.load (s.x m) count
  pure (v, s.setX m (s.x m + BitVec.ofNat s.W count))

/-- A pop into a general register; when it is the address register the loaded value wins and the increment is dropped
(45 R370). -/
def State.popInto (s : State) (m n : Reg) (count : Nat) : Host.Outcome State Fault Refusal :=
  finish do
    let v ← s.load (s.x m) count
    let s1 := if n = m then s else s.setX m (s.x m + BitVec.ofNat s.W count)
    pure (s1.setX n v)

end Sys2Proof.Machine
end

