-- ==== Sys2Proof/Machine/Arith.lean ====
section
/-!
DEFINITION. Arithmetic, comparison, division steps and multiplication (40, 41, 42, 43, 44, 45, 46).
-/

namespace Sys2Proof.Machine

/-- `ADD Rm, Rn`: 42 R280. -/
def execAdd (m n : Reg) (s : State) : Host.Outcome State Fault Refusal := .next (s.setX n (s.x n + s.x m)).advance

/-- `ADD #imm, Rn`: 46 R385. -/
def execAddImm (imm : BitVec 8) (n : Reg) (s : State) : Host.Outcome State Fault Refusal :=
  .next (s.setX n (s.x n + imm.signExtend s.W)).advance

/-- `SUB Rm, Rn`: 42 R277. -/
def execSub (m n : Reg) (s : State) : Host.Outcome State Fault Refusal := .next (s.setX n (s.x n - s.x m)).advance

/-- `NEG Rm, Rn`: 45 R377. -/
def execNeg (m n : Reg) (s : State) : Host.Outcome State Fault Refusal := .next (s.setX n (-(s.x m))).advance

/-- `ADDC Rm, Rn`: 42 R282. -/
def execAddc (m n : Reg) (s : State) : Host.Outcome State Fault Refusal :=
  let r := addWithCarry (s.x n) (s.x m) s.t
  .next ((s.setX n r.1).putT r.2).advance

/-- `ADDV Rm, Rn`: 42 R283. -/
def execAddv (m n : Reg) (s : State) : Host.Outcome State Fault Refusal :=
  let r := addWithOverflow (s.x n) (s.x m)
  .next ((s.setX n r.1).putT r.2).advance

/-- `SUBC Rm, Rn`: 42 R278. -/
def execSubc (m n : Reg) (s : State) : Host.Outcome State Fault Refusal :=
  let r := subWithBorrow (s.x n) (s.x m) s.t
  .next ((s.setX n r.1).putT r.2).advance

/-- `SUBV Rm, Rn`: 42 R279. -/
def execSubv (m n : Reg) (s : State) : Host.Outcome State Fault Refusal :=
  let r := subWithOverflow (s.x n) (s.x m)
  .next ((s.setX n r.1).putT r.2).advance

/-- `NEGC Rm, Rn`: 45 R376. -/
def execNegc (m n : Reg) (s : State) : Host.Outcome State Fault Refusal :=
  let r := subWithBorrow 0 (s.x m) s.t
  .next ((s.setX n r.1).putT r.2).advance

/-- `DT Rn`: 43 R291. -/
def execDt (n : Reg) (s : State) : Host.Outcome State Fault Refusal :=
  .next ((s.setX n (s.x n - 1)).putT (s.x n - 1 == 0)).advance

/-- `CMPEQ Rm, Rn`: 42 R270. -/
def execCmpeq (m n : Reg) (s : State) : Host.Outcome State Fault Refusal := .next (s.putT (s.x n == s.x m)).advance

/-- `CMPHS Rm, Rn`: 42 R271. -/
def execCmphs (m n : Reg) (s : State) : Host.Outcome State Fault Refusal :=
  .next (s.putT ((s.x m).ule (s.x n))).advance

/-- `CMPGE Rm, Rn`: 42 R272. -/
def execCmpge (m n : Reg) (s : State) : Host.Outcome State Fault Refusal :=
  .next (s.putT ((s.x m).sle (s.x n))).advance

/-- `CMPHI Rm, Rn`: 42 R275. -/
def execCmphi (m n : Reg) (s : State) : Host.Outcome State Fault Refusal :=
  .next (s.putT ((s.x m).ult (s.x n))).advance

/-- `CMPGT Rm, Rn`: 42 R276. -/
def execCmpgt (m n : Reg) (s : State) : Host.Outcome State Fault Refusal :=
  .next (s.putT ((s.x m).slt (s.x n))).advance

/-- `CMPSTR Rm, Rn`: 41 R263. -/
def execCmpstr (m n : Reg) (s : State) : Host.Outcome State Fault Refusal :=
  .next (s.putT (someByteZero (s.x n ^^^ s.x m))).advance

/-- `CMPPZ Rn`: 43 R294. -/
def execCmppz (n : Reg) (s : State) : Host.Outcome State Fault Refusal := .next (s.putT (!(s.x n).msb)).advance

/-- `CMPPL Rn`: 43 R316. -/
def execCmppl (n : Reg) (s : State) : Host.Outcome State Fault Refusal :=
  .next (s.putT ((0 : BitVec s.W).slt (s.x n))).advance

/-- `CMPEQ #imm, R0`: 46 R392. -/
def execCmpeqImm (imm : BitVec 8) (s : State) : Host.Outcome State Fault Refusal :=
  .next (s.putT (s.x 0 == imm.signExtend s.W)).advance

/-- `DIV0S Rm, Rn`: 41 R258. -/
def execDiv0s (m n : Reg) (s : State) : Host.Outcome State Fault Refusal :=
  .next (((s.putQ (s.x n).msb).putM (s.x m).msb).putT ((s.x n).msb ^^ (s.x m).msb)).advance

/-- `DIV1 Rm, Rn`: 42 R273. -/
def execDiv1 (m n : Reg) (s : State) : Host.Outcome State Fault Refusal :=
  let r := divideStep (s.x n) (s.x m) s.q s.m s.t
  .next (((s.setX n r.1).putQ r.2.1).putT r.2.2).advance

/-- `MUL.L/Q Rm, Rn`: 40 R215. -/
def execMulLq (m n : Reg) (s : State) : Host.Outcome State Fault Refusal :=
  .next (s.writeSpecial .macl (s.x n * s.x m)).advance

/-- `MULU.W/L Rm, Rn`: 41 R265. -/
def execMuluWl (m n : Reg) (s : State) : Host.Outcome State Fault Refusal :=
  let k := 8 * s.szWL
  let p := ((s.x n).setWidth k).setWidth (2 * k) * ((s.x m).setWidth k).setWidth (2 * k)
  .next (s.writeSpecial .macl (p.setWidth s.W)).advance

/-- `MULS.W/L Rm, Rn`: 41 R266. -/
def execMulsWl (m n : Reg) (s : State) : Host.Outcome State Fault Refusal :=
  let k := 8 * s.szWL
  let p := ((s.x n).setWidth k).signExtend (2 * k) * ((s.x m).setWidth k).signExtend (2 * k)
  .next (s.writeSpecial .macl (p.signExtend s.W)).advance

/-- A product of `2W` bits into `MACH` and `MACL` (42 R274, R281). -/
def State.writeProduct (s : State) (p : BitVec (2 * s.W)) : State :=
  (s.writeSpecial .mach (p.extractLsb' s.W s.W)).writeSpecial .macl (p.setWidth s.W)

/-- `DMULU.L/Q Rm, Rn`: 42 R274. -/
def execDmuluLq (m n : Reg) (s : State) : Host.Outcome State Fault Refusal :=
  .next (s.writeProduct ((s.x n).setWidth (2 * s.W) * (s.x m).setWidth (2 * s.W))).advance

/-- `DMULS.L/Q Rm, Rn`: 42 R281. -/
def execDmulsLq (m n : Reg) (s : State) : Host.Outcome State Fault Refusal :=
  .next (s.writeProduct ((s.x n).signExtend (2 * s.W) * (s.x m).signExtend (2 * s.W))).advance

/-- An integer brought into the range from `lo` to `hi`. -/
def clamp (lo hi v : Int) : Int := if v < lo then lo else if hi < v then hi else v

/-- `mac_l`: the accumulator after a product is added, saturating at 48 bits when `SR.S` is 1 (40 R242). -/
def accumulateLong (satur : Bool) (acc : BitVec 64) (p : Int) : BitVec 64 :=
  if satur then BitVec.ofInt 64 (clamp (-2 ^ 47) (2 ^ 47 - 1) (acc.toInt + p)) else BitVec.ofInt 64 (acc.toInt + p)

/-- `MACH` and `MACL`, 32 bits each, after a Word product is added: a sum of 64 bits when `SR.S` is 0; when it is 1 `MACL`
alone, saturating at 32 bits, with bit 0 of `MACH` set by an overflow (44 R358). -/
def accumulateWord (satur : Bool) (mach macl : BitVec 32) (p : Int) : BitVec 32 × BitVec 32 :=
  if satur then
    (if overflows 32 (macl.toInt + p) then mach ||| 1 else mach,
      BitVec.ofInt 32 (clamp (-2 ^ 31) (2 ^ 31 - 1) (macl.toInt + p)))
  else
    let r := BitVec.ofInt 64 ((mach ++ macl).toInt + p)
    (r.extractLsb' 32 32, r.extractLsb' 0 32)

/-- The two reads of a multiply-accumulate, the first at `@Rn+`, the second at `@Rm+`; when the second raises, the first
increment has happened (40 R242, 44 R358, 60 R504). -/
def State.macOperands (s : State) (m n : Reg) (count : Nat) : Except Abort (Int × State) := do
  let (a, s1) ← s.popAt n count
  let (b, s2) ← s1.popAt m count
  pure (a.toInt * b.toInt, s2)

/-- `MAC.L @Rm+, @Rn+`: 40 R242. -/
def execMacL (m n : Reg) (s : State) : Host.Outcome State Fault Refusal :=
  finish do
    demand (!s.wide) .macLongWide
    let (p, s1) ← s.macOperands m n 4
    let r := accumulateLong s.satur (s.mach.setWidth 32 ++ s.macl.setWidth 32) p
    pure ((s1.writeSpecial .mach (r.extractLsb' 32 32)).writeSpecial .macl (r.extractLsb' 0 32))

/-- `MAC.W/Q @Rm+, @Rn+`: 44 R358. -/
def execMacWq (m n : Reg) (s : State) : Host.Outcome State Fault Refusal :=
  finish do
    demand (!s.wide) .macWordWide
    let (p, s1) ← s.macOperands m n 2
    let r := accumulateWord s.satur (s.mach.setWidth 32) (s.macl.setWidth 32) p
    pure ((s1.writeSpecial .mach r.1).writeSpecial .macl r.2)

end Sys2Proof.Machine
end

