-- ==== Sys2Proof/Machine/Branch.lean ====
section
/-!
DEFINITION. The branches (40, 44, 46, 47, 70 R570 to R573).
-/

namespace Sys2Proof.Machine

/-- `BSRF Rm`: 40 R208. -/
def execBsrf (m : Reg) (s : State) : Host.Outcome State Fault Refusal :=
  settle do
    s.requireNoSlot
    pure ((s.writeSpecial .pr (s.pcPlus 4)).delayTo (s.pcPlus (4 + (s.x m).setWidth 64)))

/-- `BSAF Rm`: 40 R209. -/
def execBsaf (m : Reg) (s : State) : Host.Outcome State Fault Refusal :=
  settle do
    s.requireNoSlot
    pure (s.delayTo (s.pcPlus (4 + (s.x m).setWidth 64)))

/-- `RTS`: 40 R233. -/
def execRts (s : State) : Host.Outcome State Fault Refusal :=
  settle do
    s.requireNoSlot
    pure (s.delayTo (s.jumpTarget (s.readSpecial .pr)))

/-- `JSR Rm`: 44 R346. -/
def execJsr (m : Reg) (s : State) : Host.Outcome State Fault Refusal :=
  settle do
    s.requireNoSlot
    pure ((s.writeSpecial .pr (s.pcPlus 4)).delayTo (s.jumpTarget (s.x m)))

/-- `JMP Rm`: 44 R348. -/
def execJmp (m : Reg) (s : State) : Host.Outcome State Fault Refusal :=
  settle do
    s.requireNoSlot
    pure (s.delayTo (s.jumpTarget (s.x m)))

/-- A conditional branch without a delay slot (46 R393, R394, 70 R572). -/
def branchIf (taken : Bool) (d : BitVec 8) (s : State) : Host.Outcome State Fault Refusal :=
  settle do
    s.requireNoSlot
    pure (if taken then { s with pc := s.branchTarget d } else s.advance)

/-- A conditional branch with a delay slot; not taken, the pending target is the instruction after the slot (46 R396, R397). -/
def branchIfDelayed (taken : Bool) (d : BitVec 8) (s : State) : Host.Outcome State Fault Refusal :=
  settle do
    s.requireNoSlot
    pure (s.delayTo (if taken then s.branchTarget d else s.pcPlus 4))

/-- `BT label`: 46 R393. -/
def execBt (d : BitVec 8) (s : State) : Host.Outcome State Fault Refusal := branchIf s.t d s

/-- `BF label`: 46 R394. -/
def execBf (d : BitVec 8) (s : State) : Host.Outcome State Fault Refusal := branchIf (!s.t) d s

/-- `BTS label`: 46 R396. -/
def execBts (d : BitVec 8) (s : State) : Host.Outcome State Fault Refusal := branchIfDelayed s.t d s

/-- `BFS label`: 46 R397. -/
def execBfs (d : BitVec 8) (s : State) : Host.Outcome State Fault Refusal := branchIfDelayed (!s.t) d s

/-- `BRA label`: 47 R405. -/
def execBra (d : BitVec 12) (s : State) : Host.Outcome State Fault Refusal :=
  settle do
    s.requireNoSlot
    pure (s.delayTo (s.branchTarget d))

/-- `BSR label`: 47 R406. -/
def execBsr (d : BitVec 12) (s : State) : Host.Outcome State Fault Refusal :=
  settle do
    s.requireNoSlot
    pure ((s.writeSpecial .pr (s.pcPlus 4)).delayTo (s.branchTarget d))

end Sys2Proof.Machine
end

