-- ==== Sys2Proof/Machine/Empty.lean ====
section
/-!
DEFINITION. The words that spell no instruction of this hardware: each raises `IllegalInstruction` (30 R149 to R153, 60 R501).
-/

namespace Sys2Proof.Machine

/-- The 44-bit fat `BSR` layout, not implemented: 49 R478, 30 R153. -/
def execFatBsr44 (_d : BitVec 44) (s : State) : Host.Outcome State Fault Refusal := execIllegal s

/-- The 60-bit fat `BSR` layout, not implemented: 49 R478, 30 R153. -/
def execFatBsr60 (_d : BitVec 60) (s : State) : Host.Outcome State Fault Refusal := execIllegal s

/-- `OCBI @Rn`, not implemented: 30 R149, R153. -/
def execOcbi (_x : BitVec 4) (s : State) : Host.Outcome State Fault Refusal := execIllegal s

/-- `OCBP @Rn`, not implemented: 30 R149, R153. -/
def execOcbp (_x : BitVec 4) (s : State) : Host.Outcome State Fault Refusal := execIllegal s

/-- `OCBWB @Rn`, not implemented: 30 R149, R153. -/
def execOcbwb (_x : BitVec 4) (s : State) : Host.Outcome State Fault Refusal := execIllegal s

/-- `MOVRT Rn`, not implemented: 30 R149, R153. -/
def execMovrt (_x : BitVec 4) (s : State) : Host.Outcome State Fault Refusal := execIllegal s

/-- `STC TBR, Rn`, not implemented: 30 R149, R153. -/
def execStcTbr (_x : BitVec 4) (s : State) : Host.Outcome State Fault Refusal := execIllegal s

/-- `RTV/N Rm`, not implemented: 30 R149, R153. -/
def execRtvN (_x : BitVec 4) (s : State) : Host.Outcome State Fault Refusal := execIllegal s

/-- `MULR R0, Rn`, not implemented: 30 R149, R153. -/
def execMulr (_x : BitVec 4) (s : State) : Host.Outcome State Fault Refusal := execIllegal s

/-- `MOVMU.L Rm, @-R15`, not implemented: 30 R149, R153. -/
def execMovmuPush (_x : BitVec 4) (s : State) : Host.Outcome State Fault Refusal := execIllegal s

/-- `CLIPU.B`, not implemented: 30 R149, R153. -/
def execClipuB (_x : BitVec 4) (s : State) : Host.Outcome State Fault Refusal := execIllegal s

/-- `CLIPS.B`, not implemented: 30 R149, R153. -/
def execClipsB (_x : BitVec 4) (s : State) : Host.Outcome State Fault Refusal := execIllegal s

/-- `STBANK R0, @Rn`, not implemented: 30 R149, R153. -/
def execStbank (_x : BitVec 4) (s : State) : Host.Outcome State Fault Refusal := execIllegal s

/-- `MOVML.L Rm, @-R15`, not implemented: 30 R149, R153. -/
def execMovmlPush (_x : BitVec 4) (s : State) : Host.Outcome State Fault Refusal := execIllegal s

/-- `DIVU R0, Rn | DIVS R0, Rn`, not implemented: 30 R149, R153. -/
def execDivu (_x : BitVec 4) (s : State) : Host.Outcome State Fault Refusal := execIllegal s

/-- `MOVMU.L @R15+, Rn`, not implemented: 30 R149, R153. -/
def execMovmuPop (_x : BitVec 4) (s : State) : Host.Outcome State Fault Refusal := execIllegal s

/-- `CLIPU.W`, not implemented: 30 R149, R153. -/
def execClipuW (_x : BitVec 4) (s : State) : Host.Outcome State Fault Refusal := execIllegal s

/-- `CLIPS.W`, not implemented: 30 R149, R153. -/
def execClipsW (_x : BitVec 4) (s : State) : Host.Outcome State Fault Refusal := execIllegal s

/-- `LDBANK`, not implemented: 30 R149, R153. -/
def execLdbank (_x : BitVec 4) (s : State) : Host.Outcome State Fault Refusal := execIllegal s

/-- `MOVML.L @R15+, Rn`, not implemented: 30 R149, R153. -/
def execMovmlPop (_x : BitVec 4) (s : State) : Host.Outcome State Fault Refusal := execIllegal s

/-- `LDC Rm, TBR`, not implemented: 30 R149, R153. -/
def execLdcTbr (_x : BitVec 4) (s : State) : Host.Outcome State Fault Refusal := execIllegal s

/-- `JSR/N`, not implemented: 30 R149, R153. -/
def execJsrN (_x : BitVec 4) (s : State) : Host.Outcome State Fault Refusal := execIllegal s

/-- `MOV.B R0, @Rn+`, not implemented: 30 R149, R153. -/
def execMovBR0Post (_x : BitVec 4) (s : State) : Host.Outcome State Fault Refusal := execIllegal s

/-- `MOV.W R0, @Rn+`, not implemented: 30 R149, R153. -/
def execMovWR0Post (_x : BitVec 4) (s : State) : Host.Outcome State Fault Refusal := execIllegal s

/-- `MOV.L R0, @Rn+`, not implemented: 30 R149, R153. -/
def execMovLR0Post (_x : BitVec 4) (s : State) : Host.Outcome State Fault Refusal := execIllegal s

/-- `MOV.B @-Rm, R0`, not implemented: 30 R149, R153. -/
def execMovBR0Pre (_x : BitVec 4) (s : State) : Host.Outcome State Fault Refusal := execIllegal s

/-- `MOV.W @-Rm, R0`, not implemented: 30 R149, R153. -/
def execMovWR0Pre (_x : BitVec 4) (s : State) : Host.Outcome State Fault Refusal := execIllegal s

/-- `MOV.L @-Rm, R0`, not implemented: 30 R149, R153. -/
def execMovLR0Pre (_x : BitVec 4) (s : State) : Host.Outcome State Fault Refusal := execIllegal s

/-- `JSR/N`, not implemented: 30 R149, R153. -/
def execJsrN8 (_x : BitVec 8) (s : State) : Host.Outcome State Fault Refusal := execIllegal s

/-- `BSET|BCLR #imm3, Rn`, not implemented: 30 R149, R153. -/
def execBset (_x : BitVec 8) (s : State) : Host.Outcome State Fault Refusal := execIllegal s

/-- `BST|BLD #imm3, Rn`, not implemented: 30 R149, R153. -/
def execBst (_x : BitVec 8) (s : State) : Host.Outcome State Fault Refusal := execIllegal s

/-- `FTRV`, not implemented: 30 R149, R153. -/
def execFtrv (_x : BitVec 4) (s : State) : Host.Outcome State Fault Refusal := execIllegal s

/-- `FIPR`, not implemented: 30 R149, R153. -/
def execFipr (_x : BitVec 4) (s : State) : Host.Outcome State Fault Refusal := execIllegal s

/-- `LDTLB`, not implemented: 30 R149, R153. -/
def execLdtlb (s : State) : Host.Outcome State Fault Refusal := execIllegal s

/-- `NOTT`, not implemented: 30 R149, R153. -/
def execNott (s : State) : Host.Outcome State Fault Refusal := execIllegal s

/-- `RESBANK`, not implemented: 30 R149, R153. -/
def execResbank (s : State) : Host.Outcome State Fault Refusal := execIllegal s

/-- `RTS/N`, not implemented: 30 R149, R153. -/
def execRtsN (s : State) : Host.Outcome State Fault Refusal := execIllegal s

/-- `FRCHG`, not implemented: 30 R149, R153. -/
def execFrchg (s : State) : Host.Outcome State Fault Refusal := execIllegal s

/-- A word of a slot the source leaves unused: 30 R150, R153. -/
def execUnused (_w : InstrWord) (s : State) : Host.Outcome State Fault Refusal := execIllegal s

/-- A word of a block reserved for 32-bit operations: 30 R151, R153. -/
def execReserved (_w : InstrWord) (s : State) : Host.Outcome State Fault Refusal := execIllegal s

/-- A word of no row: 30 R152, R153. -/
def execUnlisted (_w : InstrWord) (s : State) : Host.Outcome State Fault Refusal := execIllegal s

end Sys2Proof.Machine
end

