-- ==== Sys2Proof/Machine/FatLoad.lean ====
section
/-!
DEFINITION. The fat-load forms (49).
-/

namespace Sys2Proof.Machine

/-- A fat-load prefix that opens no layout: `IllegalInstruction` where the machine has fat loads (49 R477); where it has
none, the delay-slot restriction and then a refusal (49 R470, 60 R508). -/
def fatPrefix (s : State) : Host.Outcome State Fault Refusal :=
  if s.params.hasFatLoad then execIllegal s
  else settle do
    s.requireFatLoad
    pure s

/-- `LDFAT.L` without a layout after it: 40 R237, 49 R477. -/
def execLdfatL (s : State) : Host.Outcome State Fault Refusal := fatPrefix s

/-- `LDFAT.Q` without a layout after it: 40 R238, 49 R477. -/
def execLdfatQ (s : State) : Host.Outcome State Fault Refusal := fatPrefix s

/-- `LDFAT.L`, `MOV #imm24, Rn`: 49 R472. -/
def execLdfatMov24 (imm : BitVec 24) (n : Reg) (s : State) : Host.Outcome State Fault Refusal :=
  finish (do
    s.requireFatLoad
    pure (s.setX n (imm.signExtend s.W))) 6

/-- `LDFAT.Q`, `MOV #imm40, Rn`: 49 R473. -/
def execLdfatMov40 (imm : BitVec 40) (n : Reg) (s : State) : Host.Outcome State Fault Refusal :=
  finish (do
    s.requireFatLoad
    pure (s.setX n (imm.signExtend s.W))) 8

/-- `LDFAT.Q`, `MOV #imm56, Rn`: 49 R474. -/
def execLdfatMov56 (imm : BitVec 56) (n : Reg) (s : State) : Host.Outcome State Fault Refusal :=
  finish (do
    s.requireFatLoad
    pure (s.setX n (imm.signExtend s.W))) 10

/-- `LDFAT.L`, `BRA label28`: 49 R475. -/
def execLdfatBra (d : BitVec 28) (s : State) : Host.Outcome State Fault Refusal :=
  settle do
    s.requireFatLoad
    pure (s.delayTo (s.branchTarget d) 6)

/-- `LDFAT.L`, `BSR label28`: 49 R476. -/
def execLdfatBsr (d : BitVec 28) (s : State) : Host.Outcome State Fault Refusal :=
  settle do
    s.requireFatLoad
    pure ((s.writeSpecial .pr (s.pcPlus 8)).delayTo (s.branchTarget d) 6)

end Sys2Proof.Machine
end

