-- ==== Sys2Proof/Machine/Numerics.lean ====
section
/-!
DEFINITION. The floating-point functions of 48 R431 under the parameter `numerics`: the opaque functions of Config, or the intended
instance, IEEE 754 in binary32 and binary64, which falls back on the opaque functions wherever R431 leaves the value to the instance
(log 17).
-/

namespace Sys2Proof.Machine

/-! Numbers. The finite numbers of a format are whole multiples of its least positive number, so a magnitude is a natural number. -/

/-- The bits of the fraction field of a format (48 R430). -/
def fractionBits : FpFormat → Nat
  | .single => 23
  | .double => 52

/-- The value of the exponent field of infinities and NaNs (48 R430). -/
def topExponent : FpFormat → Nat
  | .single => 255
  | .double => 2047

/-- How many units, of the least positive number of a format, the number 1 has: 2^149 and 2^1074. -/
def unitsOfOne : FpFormat → Nat
  | .single => 2 ^ 149
  | .double => 2 ^ 1074

/-- What the bits of a format stand for (48 R431). -/
inductive FpNumber where
  /-- No number. -/
  | nan
  /-- An infinity; true is negative. -/
  | infinite (neg : Bool)
  /-- A finite number, by its sign and its magnitude in units. -/
  | finite (neg : Bool) (mag : Nat)
  deriving DecidableEq, Repr

/-- What bits stand for; with `FPSCR.DN` = 1 a denormal is zero (48 R431), of the denormal's sign: R431 does not say which, the model's
choice (log 17). -/
def unpack (f : FpFormat) (dn : Bool) (v : BitVec f.width) : FpNumber :=
  let fraction := v.toNat % 2 ^ fractionBits f
  let exponent := v.toNat / 2 ^ fractionBits f % (topExponent f + 1)
  if exponent = topExponent f then (if fraction = 0 then .infinite v.msb else .nan)
  else if exponent = 0 then .finite v.msb (if dn then 0 else fraction)
  else .finite v.msb ((2 ^ fractionBits f + fraction) * 2 ^ (exponent - 1))

/-- The bits of a sign and of the exponent and fraction fields together. -/
def signed (f : FpFormat) (neg : Bool) (fields : Nat) : BitVec f.width :=
  BitVec.ofNat f.width ((if neg then 2 ^ (f.width - 1) else 0) + fields)

/-- The bits of an infinity. -/
def infinity (f : FpFormat) (neg : Bool) : BitVec f.width := signed f neg (topExponent f * 2 ^ fractionBits f)

/-- The bits of a magnitude that the format holds, or that is too large for it: an infinity, or the greatest finite number when
rounding goes toward zero (48 R431). With `FPSCR.DN` = 1 a denormal becomes zero, of the result's sign, and whether it is one is seen
after it was rounded: R431 says neither, the model's choices (log 17). -/
def pack (f : FpFormat) (towardZero dn neg : Bool) (mag : Nat) : BitVec f.width :=
  if mag < 2 ^ fractionBits f then signed f neg (if dn then 0 else mag)
  else
    let e := mag.log2 - fractionBits f
    if topExponent f ≤ e + 1 then
      (if towardZero then signed f neg (topExponent f * 2 ^ fractionBits f - 1) else infinity f neg)
    else signed f neg ((e + 1) * 2 ^ fractionBits f + (mag / 2 ^ e - 2 ^ fractionBits f))

/-- The distance of neighbours around a magnitude of `n` units and a fraction. -/
def quantum (f : FpFormat) (n : Nat) : Nat := 2 ^ (n.log2 - fractionBits f)

/-- The magnitude `num / den` units, rounded to a multiple of the distance of its neighbours: to nearest, a tie to even, or toward
zero (48 R431). -/
def roundedTo (f : FpFormat) (towardZero : Bool) (num den : Nat) : Nat :=
  let step := quantum f (num / den)
  let q := num / (den * step)
  let r := num % (den * step)
  if !towardZero && (decide (den * step < 2 * r) || (2 * r == den * step && q % 2 == 1)) then (q + 1) * step else q * step

/-- The bits of `num / den` units, rounded (48 R431). -/
def rounded (f : FpFormat) (towardZero dn neg : Bool) (num den : Nat) : BitVec f.width :=
  pack f towardZero dn neg (roundedTo f towardZero num den)

/-- The bits of an integer number of `1 / den` units, rounded; `zeroNeg` is the sign of a zero. -/
def roundedInt (f : FpFormat) (towardZero dn zeroNeg : Bool) (num : Int) (den : Nat) : BitVec f.width :=
  rounded f towardZero dn (if num = 0 then zeroNeg else decide (num < 0)) num.natAbs den

/-- The signed number of units. -/
def signedUnits (neg : Bool) (mag : Nat) : Int := if neg then -(mag : Int) else mag

/-- The rounding of `FPSCR.RM`: 0 to nearest, 1 toward zero, and no more (48 R431, 10 R52). -/
def rounding (rm : BitVec 2) : Option Bool := if rm = 0 then some false else if rm = 1 then some true else none

/-- The integer square root, from the bit `k` - 1 of the root down. -/
def rootFrom (n : Nat) : Nat → Nat → Nat
  | 0, r => r
  | k + 1, r => rootFrom n k (if (r + 2 ^ k) * (r + 2 ^ k) ≤ n then r + 2 ^ k else r)

/-- The integer square root. -/
def integerRoot (n : Nat) : Nat := rootFrom n (n.log2 / 2 + 1) 0

/-! The functions of the intended instance; no answer where R431 leaves the value open. -/

/-- The sum. -/
def ieeeAdd (f : FpFormat) (rm : BitVec 2) (dn : Bool) (a b : BitVec f.width) : Option (BitVec f.width) := do
  let z ← rounding rm
  match unpack f dn a, unpack f dn b with
  | .nan, _ => none
  | _, .nan => none
  | .infinite s, .infinite t => if s = t then some (infinity f s) else none
  | .infinite s, .finite _ _ => some (infinity f s)
  | .finite _ _, .infinite t => some (infinity f t)
  | .finite s x, .finite t y => some (roundedInt f z dn (s && t) (signedUnits s x + signedUnits t y) 1)

/-- The bits with the sign changed. -/
def flipSign (f : FpFormat) (a : BitVec f.width) : BitVec f.width := a ^^^ BitVec.ofNat f.width (2 ^ (f.width - 1))

/-- The difference. -/
def ieeeSub (f : FpFormat) (rm : BitVec 2) (dn : Bool) (a b : BitVec f.width) : Option (BitVec f.width) :=
  ieeeAdd f rm dn a (flipSign f b)

/-- The product. -/
def ieeeMul (f : FpFormat) (rm : BitVec 2) (dn : Bool) (a b : BitVec f.width) : Option (BitVec f.width) := do
  let z ← rounding rm
  match unpack f dn a, unpack f dn b with
  | .nan, _ => none
  | _, .nan => none
  | .infinite s, .infinite t => some (infinity f (s ^^ t))
  | .infinite s, .finite t y => if y = 0 then none else some (infinity f (s ^^ t))
  | .finite s x, .infinite t => if x = 0 then none else some (infinity f (s ^^ t))
  | .finite s x, .finite t y => some (rounded f z dn (s ^^ t) (x * y) (unitsOfOne f))

/-- The quotient. -/
def ieeeDiv (f : FpFormat) (rm : BitVec 2) (dn : Bool) (a b : BitVec f.width) : Option (BitVec f.width) := do
  let z ← rounding rm
  match unpack f dn a, unpack f dn b with
  | .nan, _ => none
  | _, .nan => none
  | .infinite _, .infinite _ => none
  | .infinite s, .finite t _ => some (infinity f (s ^^ t))
  | .finite s _, .infinite t => some (signed f (s ^^ t) 0)
  | .finite s x, .finite t y =>
    if y = 0 then (if x = 0 then none else some (infinity f (s ^^ t)))
    else some (rounded f z dn (s ^^ t) (x * unitsOfOne f) y)

/-- The square root. -/
def ieeeSqrt (f : FpFormat) (rm : BitVec 2) (dn : Bool) (a : BitVec f.width) : Option (BitVec f.width) := do
  let z ← rounding rm
  match unpack f dn a with
  | .nan => none
  | .infinite s => if s then none else some (infinity f false)
  | .finite s x =>
    if x = 0 then some (signed f s 0)
    else if s then none
    else
      let n := x * unitsOfOne f
      let r := integerRoot n
      some (rounded f z dn false (2 * r + if r * r = n then 0 else 1) 2)

/-- `a * b + c`: an answer only where it is the same whether the product is rounded before the addition or not, which R457 leaves
open. -/
def ieeeMac (f : FpFormat) (rm : BitVec 2) (dn : Bool) (a b c : BitVec f.width) : Option (BitVec f.width) := do
  let z ← rounding rm
  let p ← ieeeMul f rm dn a b
  let v ← ieeeAdd f rm dn p c
  match unpack f dn a, unpack f dn b, unpack f dn c with
  | .finite s x, .finite t y, .finite u w =>
    let one := unitsOfOne f
    let w1 := roundedInt f z dn ((s ^^ t) && u) (signedUnits (s ^^ t) (x * y) + signedUnits u (w * one)) one
    if w1 = v then some v else none
  | _, _, _ => some v

/-- The place of a number among the others; none for a NaN. -/
def rank (f : FpFormat) : FpNumber → Option Int
  | .nan => none
  | .infinite s => some (signedUnits s (2 ^ (topExponent f + fractionBits f)))
  | .finite s x => some (signedUnits s x)

/-- Whether two values are equal; a NaN equals nothing (48 R436). -/
def ieeeEq (f : FpFormat) (dn : Bool) (a b : BitVec f.width) : Bool :=
  match rank f (unpack f dn a), rank f (unpack f dn b) with
  | some x, some y => x == y
  | _, _ => false

/-- Whether the first value is greater; false for a NaN (48 R437). -/
def ieeeGt (f : FpFormat) (dn : Bool) (a b : BitVec f.width) : Bool :=
  match rank f (unpack f dn a), rank f (unpack f dn b) with
  | some x, some y => decide (y < x)
  | _, _ => false

/-- An integer as a number of the format (48 R447). -/
def ieeeFloat (f : FpFormat) (rm : BitVec 2) (k : Int) : Option (BitVec f.width) := do
  let z ← rounding rm
  some (roundedInt f z false false (k * unitsOfOne f) 1)

/-- The integer part of a number, toward zero; an answer only where `bits` bits hold it (48 R448). -/
def ieeeTrc (f : FpFormat) (bits : Nat) (a : BitVec f.width) : Option Int :=
  match unpack f false a with
  | .finite s x =>
    let k := signedUnits s (x / unitsOfOne f)
    if -2 ^ (bits - 1) ≤ k ∧ k < 2 ^ (bits - 1) then some k else none
  | _ => none

/-- A single as a double (48 R454). -/
def ieeeCnvsd (dn : Bool) (a : BitVec 32) : Option (BitVec 64) :=
  match unpack .single dn a with
  | .nan => none
  | .infinite s => some (infinity .double s)
  | .finite s x => some (rounded .double false dn s (x * 2 ^ 925) 1)

/-- A double as a single, rounded (48 R455). -/
def ieeeCnvds (rm : BitVec 2) (dn : Bool) (a : BitVec 64) : Option (BitVec 32) := do
  let z ← rounding rm
  match unpack .double dn a with
  | .nan => none
  | .infinite s => some (infinity .single s)
  | .finite s x => some (rounded .single z dn s x (2 ^ 925))

/-! The functions of 48 R431 as the instructions use them. -/

/-- A value of the intended instance if the machine has it and it answers, else the other. -/
def State.byNumerics (s : State) {α : Type} (ieee : Option α) (other : α) : α :=
  match s.params.numerics, ieee with
  | .ieee, some v => v
  | _, _ => other

/-- `fp_add` (48 R431). -/
def State.fpAdd (s : State) (f : FpFormat) (rm : BitVec 2) (dn : Bool) (a b : BitVec f.width) : BitVec f.width :=
  s.byNumerics (ieeeAdd f rm dn a b) (Config.fpAdd f rm dn a b)

/-- `fp_sub` (48 R431). -/
def State.fpSub (s : State) (f : FpFormat) (rm : BitVec 2) (dn : Bool) (a b : BitVec f.width) : BitVec f.width :=
  s.byNumerics (ieeeSub f rm dn a b) (Config.fpSub f rm dn a b)

/-- `fp_mul` (48 R431). -/
def State.fpMul (s : State) (f : FpFormat) (rm : BitVec 2) (dn : Bool) (a b : BitVec f.width) : BitVec f.width :=
  s.byNumerics (ieeeMul f rm dn a b) (Config.fpMul f rm dn a b)

/-- `fp_div` (48 R431). -/
def State.fpDiv (s : State) (f : FpFormat) (rm : BitVec 2) (dn : Bool) (a b : BitVec f.width) : BitVec f.width :=
  s.byNumerics (ieeeDiv f rm dn a b) (Config.fpDiv f rm dn a b)

/-- `fp_sqrt` (48 R431). -/
def State.fpSqrt (s : State) (f : FpFormat) (rm : BitVec 2) (dn : Bool) (a : BitVec f.width) : BitVec f.width :=
  s.byNumerics (ieeeSqrt f rm dn a) (Config.fpSqrt f rm dn a)

/-- `fp_mac` (48 R431). -/
def State.fpMac (s : State) (f : FpFormat) (rm : BitVec 2) (dn : Bool) (a b c : BitVec f.width) : BitVec f.width :=
  s.byNumerics (ieeeMac f rm dn a b c) (Config.fpMac f rm dn a b c)

/-- `fp_eq` (48 R431). -/
def State.fpEq (s : State) (f : FpFormat) (dn : Bool) (a b : BitVec f.width) : Bool :=
  s.byNumerics (some (ieeeEq f dn a b)) (Config.fpEq f dn a b)

/-- `fp_gt` (48 R431). -/
def State.fpGt (s : State) (f : FpFormat) (dn : Bool) (a b : BitVec f.width) : Bool :=
  s.byNumerics (some (ieeeGt f dn a b)) (Config.fpGt f dn a b)

/-- `fp_float` (48 R431). -/
def State.fpFloat (s : State) (f : FpFormat) (rm : BitVec 2) (k : Int) : BitVec f.width :=
  s.byNumerics (ieeeFloat f rm k) (Config.fpFloat f rm k)

/-- `fp_trc` (48 R431), to an integer of `bits` bits. -/
def State.fpTrc (s : State) (f : FpFormat) (bits : Nat) (a : BitVec f.width) : Int :=
  s.byNumerics (ieeeTrc f bits a) (Config.fpTrc f a)

/-- `fp_cnvsd` (48 R431). -/
def State.fpCnvsd (s : State) (dn : Bool) (a : BitVec 32) : BitVec 64 :=
  s.byNumerics (ieeeCnvsd dn a) (Config.fpCnvsd dn a)

/-- `fp_cnvds` (48 R431). -/
def State.fpCnvds (s : State) (rm : BitVec 2) (dn : Bool) (a : BitVec 64) : BitVec 32 :=
  s.byNumerics (ieeeCnvds rm dn a) (Config.fpCnvds rm dn a)

end Sys2Proof.Machine
end

