-- ==== Sys2Proof/Machine/Fpu.lean ====
section
/-!
DEFINITION. The FPU group (48).
-/

namespace Sys2Proof.Machine

/-- An arithmetic instruction of two operands: `FVset(n, op(fmt, RM, DN, FV(n), FV(m)))` (48 R432 to R435). -/
def fpArith (op : (f : FpFormat) → BitVec 2 → Bool → BitVec f.width → BitVec f.width → BitVec f.width) (m n : FReg)
    (s : State) : Host.Outcome State Fault Refusal :=
  finish do
    s.requireFpuGroup
    let md ← s.requireFpMode
    requireOperand md m
    requireOperand md n
    pure (s.fvSet md n (op md.format s.rm s.dn (s.fv md n) (s.fv md m)))

/-- A comparison of two operands into `T` (48 R436, R437). -/
def fpCompare (op : (f : FpFormat) → Bool → BitVec f.width → BitVec f.width → Bool) (m n : FReg) (s : State) :
    Host.Outcome State Fault Refusal :=
  finish do
    s.requireFpuGroup
    let md ← s.requireFpMode
    requireOperand md m
    requireOperand md n
    pure (s.putT (op md.format s.dn (s.fv md n) (s.fv md m)))

/-- An instruction that replaces the sign of one operand (48 R449, R450). -/
def fpSign (f : Bool → Bool) (n : FReg) (s : State) : Host.Outcome State Fault Refusal :=
  finish do
    s.requireFpuGroup
    let md ← s.requireFpMode
    requireOperand md n
    pure (s.mapSign f md n)

/-- A constant into an FPU register: the single or the double bit pattern; split-double mode is refused (48 R452, R453). -/
def fpConstant (single : BitVec 32) (double : BitVec 64) (n : FReg) (s : State) : Host.Outcome State Fault Refusal :=
  finish do
    s.requireFpuGroup
    let md ← s.requireFpMode
    match md with
    | .single => pure (s.putF32 n single)
    | .split => .error (.refuse .fpuSplitDouble)
    | .double => pure (s.setF64 n double)

/-- What `FMOV.S` moves (48 R458). -/
inductive FpTransfer where
  /-- Case `L4`: bits 31:0 of one register. -/
  | single
  /-- Case `L8P`: bits 31:0 of a pair of registers. -/
  | pair
  /-- Case `L8D`: one register of 64 bits. -/
  | double
  deriving DecidableEq, Repr

/-- The bytes of a transfer (48 R458). -/
def FpTransfer.size : FpTransfer → Nat
  | .single => 4
  | .pair => 8
  | .double => 8

/-- What `FMOV.S` moves to or from an FPU register field under the mode bits in force (48 R458). -/
def State.requireTransfer (s : State) (i : FReg) : Except Abort FpTransfer :=
  match s.aq, s.fpSize with
  | false, false => .ok .single
  | false, true => if i.getLsbD 0 then .error (.refuse .fpuOddPair) else .ok .pair
  | true, false => .error (.refuse .fpuMoveSize)
  | true, true => .ok .double

/-- `FLoad(a)`: the register image at an address; of a pair the DWord at the lower address is the high half of the answer
(48 R458). -/
def State.fpLoad (s : State) (t : FpTransfer) {w : Nat} (a : BitVec w) : Except Abort (BitVec 64) :=
  match t with
  | .single => do
    let v ← s.readMem s.localOrder (a.setWidth 64) 4
    pure (v.setWidth 64)
  | .pair => do
    let e := s.ea (a.setWidth 64)
    s.checkAccess .read e 8 8
    pure ((s.valueAt s.localOrder e 4).setWidth 32 ++ (s.valueAt s.localOrder (e + 4) 4).setWidth 32)
  | .double => do
    let v ← s.readMem s.localOrder (a.setWidth 64) 8
    pure (v.setWidth 64)

/-- A register image placed in a register or a pair (48 R458). -/
def State.fpPlace (s : State) (t : FpTransfer) (i : FReg) (v : BitVec 64) : State :=
  match t with
  | .single => s.putF32 i (v.setWidth 32)
  | .pair =>
    (s.putF32 (pairRegisters s.params.pairLow i).1 (v.extractLsb' 32 32)).putF32
      (pairRegisters s.params.pairLow i).2 (v.extractLsb' 0 32)
  | .double => s.setF64 i v

/-- `FStore(a, i)`: a register or a pair stored; both halves of a pair are checked before either is stored (48 R458). -/
def State.fpStore (s : State) (t : FpTransfer) {w : Nat} (a : BitVec w) (i : FReg) : Except Abort State :=
  match t with
  | .single => s.store a 4 (s.f32 i)
  | .pair => do
    let e := s.ea (a.setWidth 64)
    s.checkAccess .write e 8 8
    pure ((s.putBytes s.localOrder e 4 (s.f32 (pairRegisters s.params.pairLow i).1).toNat).putBytes s.localOrder (e + 4) 4
      (s.f32 (pairRegisters s.params.pairLow i).2).toNat)
  | .double => s.store a 8 (s.f64 i)

/-- `FMOV.S` from memory (48 R438, R440). -/
def fpLoadFrom (a : BitVec 64) (n : FReg) (s : State) : Host.Outcome State Fault Refusal :=
  finish do
    s.requireFpuGroup
    let t ← s.requireTransfer n
    let v ← s.fpLoad t a
    pure (s.fpPlace t n v)

/-- `FMOV.S` to memory (48 R439, R442). -/
def fpStoreTo (a : BitVec 64) (m : FReg) (s : State) : Host.Outcome State Fault Refusal :=
  finish do
    s.requireFpuGroup
    let t ← s.requireTransfer m
    s.fpStore t a m

/-- `FADD FRm, FRn`: 48 R432. -/
def execFadd (m n : FReg) (s : State) : Host.Outcome State Fault Refusal := fpArith s.fpAdd m n s

/-- `FSUB FRm, FRn`: 48 R433. -/
def execFsub (m n : FReg) (s : State) : Host.Outcome State Fault Refusal := fpArith s.fpSub m n s

/-- `FMUL FRm, FRn`: 48 R434. -/
def execFmul (m n : FReg) (s : State) : Host.Outcome State Fault Refusal := fpArith s.fpMul m n s

/-- `FDIV FRm, FRn`: 48 R435. -/
def execFdiv (m n : FReg) (s : State) : Host.Outcome State Fault Refusal := fpArith s.fpDiv m n s

/-- `FCMPEQ FRm, FRn`: 48 R436. -/
def execFcmpeq (m n : FReg) (s : State) : Host.Outcome State Fault Refusal := fpCompare s.fpEq m n s

/-- `FCMPGT FRm, FRn`: 48 R437. -/
def execFcmpgt (m n : FReg) (s : State) : Host.Outcome State Fault Refusal := fpCompare s.fpGt m n s

/-- `FMOV.S @(R0,Rm), FRn`: 48 R438. -/
def execFmovLoadIdx (m : Reg) (n : FReg) (s : State) : Host.Outcome State Fault Refusal :=
  fpLoadFrom ((s.x 0 + s.x m).setWidth 64) n s

/-- `FMOV.S FRm, @(R0,Rn)`: 48 R439. -/
def execFmovStoreIdx (m : FReg) (n : Reg) (s : State) : Host.Outcome State Fault Refusal :=
  fpStoreTo ((s.x 0 + s.x n).setWidth 64) m s

/-- `FMOV.S @Rm, FRn`: 48 R440. -/
def execFmovLoad (m : Reg) (n : FReg) (s : State) : Host.Outcome State Fault Refusal :=
  fpLoadFrom ((s.x m).setWidth 64) n s

/-- `FMOV.S @Rm+, FRn`: 48 R441. -/
def execFmovPop (m : Reg) (n : FReg) (s : State) : Host.Outcome State Fault Refusal :=
  finish do
    s.requireFpuGroup
    let t ← s.requireTransfer n
    let v ← s.fpLoad t (s.x m)
    pure ((s.setX m (s.x m + BitVec.ofNat s.W t.size)).fpPlace t n v)

/-- `FMOV.S FRm, @Rn`: 48 R442. -/
def execFmovStore (m : FReg) (n : Reg) (s : State) : Host.Outcome State Fault Refusal :=
  fpStoreTo ((s.x n).setWidth 64) m s

/-- `FMOV.S FRm, @-Rn`: 48 R443. -/
def execFmovPush (m : FReg) (n : Reg) (s : State) : Host.Outcome State Fault Refusal :=
  finish do
    s.requireFpuGroup
    let t ← s.requireTransfer m
    let a := s.x n - BitVec.ofNat s.W t.size
    let s1 ← s.fpStore t a m
    pure (s1.setX n a)

/-- `FMOV FRm, FRn`: 48 R444. -/
def execFmov (m n : FReg) (s : State) : Host.Outcome State Fault Refusal :=
  finish do
    s.requireFpuGroup
    if s.aq then pure (s.putFreg n (s.freg m))
    else if s.fpSize then
      demand (!m.getLsbD 0 && !n.getLsbD 0) .fpuOddPair
      pure ((s.putF32 n (s.f32 m)).putF32 (pairPartner n) (s.f32 (pairPartner m)))
    else pure (s.putF32 n (s.f32 m))

/-- `FSTS FRn`: 48 R445. -/
def execFsts (n : FReg) (s : State) : Host.Outcome State Fault Refusal :=
  finish do
    s.requireFpuGroup
    if s.aq then
      match s.params.fpulMoveBits with
      | .w32 => pure (s.setF32 n (s.fpul.setWidth 32))
      | .w64 => pure (s.setF64 n s.fpul)
    else pure (s.putF32 n (s.fpul.setWidth 32))

/-- `FLDS FRm`: 48 R446. -/
def execFlds (m : FReg) (s : State) : Host.Outcome State Fault Refusal :=
  finish do
    s.requireFpuGroup
    match s.fpulMove with
    | .w32 => pure (s.putFpulLow .w32 ((s.f32 m).setWidth 64))
    | .w64 => pure (s.putFpulLow .w64 (s.f64 m))

/-- `FLOAT FRn`: 48 R447. -/
def execFloat (n : FReg) (s : State) : Host.Outcome State Fault Refusal :=
  finish do
    s.requireFpuGroup
    let md ← s.requireFpMode
    requireOperand md n
    let k := match s.fpulInt with
      | .w32 => (s.fpul.setWidth 32).toInt
      | .w64 => s.fpul.toInt
    pure (s.fvSet md n (s.fpFloat md.format s.rm k))

/-- `FTRC FRm`: 48 R448. -/
def execFtrc (m : FReg) (s : State) : Host.Outcome State Fault Refusal :=
  finish do
    s.requireFpuGroup
    let md ← s.requireFpMode
    requireOperand md m
    pure (s.putFpulLow s.fpulInt (BitVec.ofInt 64 (s.fpTrc md.format s.fpulInt.bits (s.fv md m))))

/-- `FNEG FRn`: 48 R449. -/
def execFneg (n : FReg) (s : State) : Host.Outcome State Fault Refusal := fpSign (! ·) n s

/-- `FABS FRn`: 48 R450. -/
def execFabs (n : FReg) (s : State) : Host.Outcome State Fault Refusal := fpSign (fun _ => false) n s

/-- `FSQRT FRn`: 48 R451. -/
def execFsqrt (n : FReg) (s : State) : Host.Outcome State Fault Refusal :=
  finish do
    s.requireFpuGroup
    let md ← s.requireFpMode
    requireOperand md n
    pure (s.fvSet md n (s.fpSqrt md.format s.rm s.dn (s.fv md n)))

/-- `FLDI0 FRn`: 48 R452. -/
def execFldi0 (n : FReg) (s : State) : Host.Outcome State Fault Refusal := fpConstant 0 0 n s

/-- `FLDI1 FRn`: 48 R453. -/
def execFldi1 (n : FReg) (s : State) : Host.Outcome State Fault Refusal :=
  fpConstant 0x3F800000 0x3FF0000000000000 n s

/-- `FCNVSD FRn`: 48 R454. -/
def execFcnvsd (n : FReg) (s : State) : Host.Outcome State Fault Refusal :=
  finish do
    s.requireFpuGroup
    let md ← s.requireFpMode
    requireOperand md n
    match md with
    | .single => .error (.refuse .fpuConvertSingle)
    | .split => pure (s.fvSet .split n (s.fpCnvsd s.dn (s.fpul.setWidth 32)))
    | .double => pure (s.fvSet .double n (s.fpCnvsd s.dn (s.fpul.setWidth 32)))

/-- `FCNVDS FRm`: 48 R455. -/
def execFcnvds (m : FReg) (s : State) : Host.Outcome State Fault Refusal :=
  finish do
    s.requireFpuGroup
    let md ← s.requireFpMode
    requireOperand md m
    match md with
    | .single => .error (.refuse .fpuConvertSingle)
    | .split => pure (s.putFpulLow .w32 ((s.fpCnvds s.rm s.dn (s.fv .split m)).setWidth 64))
    | .double => pure (s.putFpulLow .w32 ((s.fpCnvds s.rm s.dn (s.fv .double m)).setWidth 64))

/-- `FSCHG`: 48 R456. -/
def execFschg (s : State) : Host.Outcome State Fault Refusal :=
  finish do
    s.requireFpuGroup
    pure (s.putFpSize (!s.fpSize))

/-- `FMAC FRm, FRn`: 48 R457. -/
def execFmac (m n : FReg) (s : State) : Host.Outcome State Fault Refusal :=
  finish do
    s.requireFpuGroup
    let md ← s.requireFpMode
    demand (md != .split) .fpuSplitDouble
    pure (s.fvSet md n (s.fpMac md.format s.rm s.dn (s.fv md 0) (s.fv md m) (s.fv md n)))

end Sys2Proof.Machine
end

