-- ==== Sys2Proof/Machine/Logic.lean ====
section
/-!
DEFINITION. Logic on registers, on immediates and on a byte of memory (41, 45, 47).
-/

namespace Sys2Proof.Machine

/-- `AND Rm, Rn`: 41 R260. -/
def execAnd (m n : Reg) (s : State) : Host.Outcome State Fault Refusal := .next (s.setX n (s.x n &&& s.x m)).advance

/-- `XOR Rm, Rn`: 41 R261. -/
def execXor (m n : Reg) (s : State) : Host.Outcome State Fault Refusal := .next (s.setX n (s.x n ^^^ s.x m)).advance

/-- `OR Rm, Rn`: 41 R262. -/
def execOr (m n : Reg) (s : State) : Host.Outcome State Fault Refusal := .next (s.setX n (s.x n ||| s.x m)).advance

/-- `NOT Rm, Rn`: 45 R373. -/
def execNot (m n : Reg) (s : State) : Host.Outcome State Fault Refusal := .next (s.setX n (~~~(s.x m))).advance

/-- `TST Rm, Rn`: 41 R259. -/
def execTst (m n : Reg) (s : State) : Host.Outcome State Fault Refusal :=
  .next (s.putT (s.x n &&& s.x m == 0)).advance

/-- `TST #imm, R0`: 47 R415. -/
def execTstImm (imm : BitVec 8) (s : State) : Host.Outcome State Fault Refusal :=
  .next (s.putT (s.x 0 &&& imm.setWidth s.W == 0)).advance

/-- `AND #imm, R0`: 47 R416. -/
def execAndImm (imm : BitVec 8) (s : State) : Host.Outcome State Fault Refusal :=
  .next (s.setX 0 (s.x 0 &&& imm.setWidth s.W)).advance

/-- `XOR #imm, R0`: 47 R417. -/
def execXorImm (imm : BitVec 8) (s : State) : Host.Outcome State Fault Refusal :=
  .next (s.setX 0 (s.x 0 ^^^ imm.setWidth s.W)).advance

/-- `OR #imm, R0`: 47 R418. -/
def execOrImm (imm : BitVec 8) (s : State) : Host.Outcome State Fault Refusal :=
  .next (s.setX 0 (s.x 0 ||| imm.setWidth s.W)).advance

/-- The address `GBR + R0` of the byte instructions (47 R419 to R422). -/
def State.gbrIndexed (s : State) : BitVec s.W := s.readSpecial .gbr + s.x 0

/-- A byte of memory at `GBR + R0` read, then replaced by a function of it (47 R420 to R422). -/
def modifyByte (f : Byte → Byte) (s : State) : Host.Outcome State Fault Refusal :=
  finish do
    let v ← s.readMem s.localOrder (s.gbrIndexed.setWidth 64) 1
    s.store s.gbrIndexed 1 (f v)

/-- `TST.B #imm, @(GBR,R0)`: 47 R419. -/
def execTstB (imm : BitVec 8) (s : State) : Host.Outcome State Fault Refusal :=
  finish do
    let v ← s.readMem s.localOrder (s.gbrIndexed.setWidth 64) 1
    pure (s.putT (v &&& imm == 0))

/-- `AND.B #imm, @(GBR,R0)`: 47 R420. -/
def execAndB (imm : BitVec 8) (s : State) : Host.Outcome State Fault Refusal := modifyByte (· &&& imm) s

/-- `XOR.B #imm, @(GBR,R0)`: 47 R421. -/
def execXorB (imm : BitVec 8) (s : State) : Host.Outcome State Fault Refusal := modifyByte (· ^^^ imm) s

/-- `OR.B #imm, @(GBR,R0)`: 47 R422. -/
def execOrB (imm : BitVec 8) (s : State) : Host.Outcome State Fault Refusal := modifyByte (· ||| imm) s

end Sys2Proof.Machine
end

