-- ==== Sys2Proof/Machine/Move.lean ====
section
/-!
DEFINITION. Loads, stores and register moves (40, 41, 44, 45, 46, 47).
-/

namespace Sys2Proof.Machine

/-- A displacement field scaled by the access size, as an offset of `W` bits (30 R145). -/
def State.offset (s : State) (scale : Nat) {w : Nat} (d : BitVec w) : BitVec s.W := BitVec.ofNat s.W (scale * d.toNat)

/-- The address of a `GBR`-relative operand with a displacement (47 R407 to R413). -/
def State.gbrOperand (s : State) (scale : Nat) (d : BitVec 8) : BitVec s.W := s.readSpecial .gbr + s.offset scale d

/-- `MOVCA.L R0, @Rn`: 40 R211; the cache allocation has no architectural effect. -/
def execMovcaL (n : Reg) (s : State) : Host.Outcome State Fault Refusal := s.storeAt (s.x n) 4 (s.x 0)

/-- `MOV.B Rm, @(R0,Rn)`: 40 R212. -/
def execMovBStoreIdx (m n : Reg) (s : State) : Host.Outcome State Fault Refusal := s.storeAt (s.x 0 + s.x n) 1 (s.x m)

/-- `MOV.W/Q Rm, @(R0,Rn)`: 40 R213. -/
def execMovWqStoreIdx (m n : Reg) (s : State) : Host.Outcome State Fault Refusal :=
  s.storeAt (s.x 0 + s.x n) s.szWQ (s.x m)

/-- `MOV.L Rm, @(R0,Rn)`: 40 R214. -/
def execMovLStoreIdx (m n : Reg) (s : State) : Host.Outcome State Fault Refusal := s.storeAt (s.x 0 + s.x n) 4 (s.x m)

/-- `MOV.B @(R0,Rm), Rn`: 40 R239. -/
def execMovBLoadIdx (m n : Reg) (s : State) : Host.Outcome State Fault Refusal := s.loadInto (s.x 0 + s.x m) 1 n

/-- `MOV.W/Q @(R0,Rm), Rn`: 40 R240. -/
def execMovWqLoadIdx (m n : Reg) (s : State) : Host.Outcome State Fault Refusal := s.loadInto (s.x 0 + s.x m) s.szWQ n

/-- `MOV.L @(R0,Rm), Rn`: 40 R241. -/
def execMovLLoadIdx (m n : Reg) (s : State) : Host.Outcome State Fault Refusal := s.loadInto (s.x 0 + s.x m) 4 n

/-- `MOV.L Rm, @(Rn,disp)`: 41 R250. -/
def execMovLStoreDisp (m n : Reg) (d : BitVec 4) (s : State) : Host.Outcome State Fault Refusal :=
  s.storeAt (s.x n + s.offset 4 d) 4 (s.x m)

/-- `MOV.B Rm, @Rn`: 41 R251. -/
def execMovBStore (m n : Reg) (s : State) : Host.Outcome State Fault Refusal := s.storeAt (s.x n) 1 (s.x m)

/-- `MOV.W/Q Rm, @Rn`: 41 R252. -/
def execMovWqStore (m n : Reg) (s : State) : Host.Outcome State Fault Refusal := s.storeAt (s.x n) s.szWQ (s.x m)

/-- `MOV.L Rm, @Rn`: 41 R253. -/
def execMovLStore (m n : Reg) (s : State) : Host.Outcome State Fault Refusal := s.storeAt (s.x n) 4 (s.x m)

/-- `MOV.B Rm, @-Rn`: 41 R255. -/
def execMovBPush (m n : Reg) (s : State) : Host.Outcome State Fault Refusal := finish (s.pushAt n 1 (s.x m))

/-- `MOV.W/Q Rm, @-Rn`: 41 R256. -/
def execMovWqPush (m n : Reg) (s : State) : Host.Outcome State Fault Refusal := finish (s.pushAt n s.szWQ (s.x m))

/-- `MOV.L Rm, @-Rn`: 41 R257. -/
def execMovLPush (m n : Reg) (s : State) : Host.Outcome State Fault Refusal := finish (s.pushAt n 4 (s.x m))

/-- The register that `CAS.L` compares and the one that it stores, by the roles of the parameter (41 R254, D30). -/
def casRegisters (roles : CasRoles) (m n : Reg) : Reg × Reg :=
  match roles with
  | .compareRm => (m, n)
  | .compareRn => (n, m)

/-- `CAS.L Rm, Rn, @R0`: 41 R254, with the roles of the parameter (log 14); `n` names the register that it named before `T` was
written (log 24). -/
def execCasL (m n : Reg) (s : State) : Host.Outcome State Fault Refusal :=
  finish do
    let old ← s.readMem s.localOrder ((s.x 0).setWidth 64) 4
    let r := casRegisters s.params.casRoles m n
    let equal := (s.x r.1).setWidth 32 == old.setWidth 32
    let s1 ← if equal then s.store (s.x 0) 4 (s.x r.2) else .ok s
    pure ((s1.setX n (old.signExtend s.W)).putT equal)

/-- `TAS.B @Rn`: 44 R347. -/
def execTasB (m : Reg) (s : State) : Host.Outcome State Fault Refusal :=
  finish do
    let v ← s.readMem s.localOrder ((s.x m).setWidth 64) 1
    let s1 ← s.store (s.x m) 1 (v ||| 0x80)
    pure (s1.putT (v == 0))

/-- `MOV.L @(Rm,disp), Rn`: 45 R365. -/
def execMovLLoadDisp (m : Reg) (d : BitVec 4) (n : Reg) (s : State) : Host.Outcome State Fault Refusal :=
  s.loadInto (s.x m + s.offset 4 d) 4 n

/-- `MOV.B @Rm, Rn`: 45 R366. -/
def execMovBLoad (m n : Reg) (s : State) : Host.Outcome State Fault Refusal := s.loadInto (s.x m) 1 n

/-- `MOV.W/Q @Rm, Rn`: 45 R367. -/
def execMovWqLoad (m n : Reg) (s : State) : Host.Outcome State Fault Refusal := s.loadInto (s.x m) s.szWQ n

/-- `MOV.L @Rm, Rn`: 45 R368. -/
def execMovLLoad (m n : Reg) (s : State) : Host.Outcome State Fault Refusal := s.loadInto (s.x m) 4 n

/-- `MOV Rm, Rn`: 45 R369. -/
def execMov (m n : Reg) (s : State) : Host.Outcome State Fault Refusal := .next (s.setX n (s.x m)).advance

/-- `MOV.B @Rm+, Rn`: 45 R370. -/
def execMovBPop (m n : Reg) (s : State) : Host.Outcome State Fault Refusal := s.popInto m n 1

/-- `MOV.W/Q @Rm+, Rn`: 45 R371. -/
def execMovWqPop (m n : Reg) (s : State) : Host.Outcome State Fault Refusal := s.popInto m n s.szWQ

/-- `MOV.L @Rm+, Rn`: 45 R372. -/
def execMovLPop (m n : Reg) (s : State) : Host.Outcome State Fault Refusal := s.popInto m n 4

/-- `MOV.B R0, @(Rn,disp)`: 46 R386. -/
def execMovBStoreR0Disp (n : Reg) (d : BitVec 4) (s : State) : Host.Outcome State Fault Refusal :=
  s.storeAt (s.x n + s.offset 1 d) 1 (s.x 0)

/-- `MOV.W/Q R0, @(Rn,disp)`: 46 R387. -/
def execMovWqStoreR0Disp (n : Reg) (d : BitVec 4) (s : State) : Host.Outcome State Fault Refusal :=
  s.storeAt (s.x n + s.offset s.szWQ d) s.szWQ (s.x 0)

/-- `MOV.W R0, @Rn`: 46 R388, a Word whatever `SR.DQ` holds (30 R154). -/
def execMovWStoreR0 (n : Reg) (s : State) : Host.Outcome State Fault Refusal := s.storeAt (s.x n) 2 (s.x 0)

/-- `MOV.B @(Rm,disp), R0`: 46 R389. -/
def execMovBLoadR0Disp (m : Reg) (d : BitVec 4) (s : State) : Host.Outcome State Fault Refusal :=
  s.loadInto (s.x m + s.offset 1 d) 1 0

/-- `MOV.W/Q @(Rm,disp), R0`: 46 R390. -/
def execMovWqLoadR0Disp (m : Reg) (d : BitVec 4) (s : State) : Host.Outcome State Fault Refusal :=
  s.loadInto (s.x m + s.offset s.szWQ d) s.szWQ 0

/-- `MOV.W @Rm, R0`: 46 R391, a Word whatever `SR.DQ` holds (30 R154). -/
def execMovWLoadR0 (m : Reg) (s : State) : Host.Outcome State Fault Refusal := s.loadInto (s.x m) 2 0

/-- `MOV.W/Q @(Rm,disp), Rn`: 46 R398. -/
def execMovWqLoadDisp (m : Reg) (d : BitVec 4) (n : Reg) (s : State) : Host.Outcome State Fault Refusal :=
  s.loadInto (s.x m + s.offset s.szWQ d) s.szWQ n

/-- `MOV.W @Rm, Rn`: 46 R399, a Word whatever `SR.DQ` holds (30 R154). -/
def execMovWLoad (m n : Reg) (s : State) : Host.Outcome State Fault Refusal := s.loadInto (s.x m) 2 n

/-- `MOV.B R0, @(GBR,disp)`: 47 R407. -/
def execMovBStoreGbr (d : BitVec 8) (s : State) : Host.Outcome State Fault Refusal :=
  s.storeAt (s.gbrOperand 1 d) 1 (s.x 0)

/-- `MOV.W/Q R0, @(GBR,disp)`: 47 R408. -/
def execMovWqStoreGbr (d : BitVec 8) (s : State) : Host.Outcome State Fault Refusal :=
  s.storeAt (s.gbrOperand s.szWQ d) s.szWQ (s.x 0)

/-- `MOV.L R0, @(GBR,disp)`: 47 R409. -/
def execMovLStoreGbr (d : BitVec 8) (s : State) : Host.Outcome State Fault Refusal :=
  s.storeAt (s.gbrOperand 4 d) 4 (s.x 0)

/-- `MOV.B @(GBR,disp), R0`: 47 R411. -/
def execMovBLoadGbr (d : BitVec 8) (s : State) : Host.Outcome State Fault Refusal := s.loadInto (s.gbrOperand 1 d) 1 0

/-- `MOV.W/Q @(GBR,disp), R0`: 47 R412. -/
def execMovWqLoadGbr (d : BitVec 8) (s : State) : Host.Outcome State Fault Refusal :=
  s.loadInto (s.gbrOperand s.szWQ d) s.szWQ 0

/-- `MOV.L @(GBR,disp), R0`: 47 R413. -/
def execMovLLoadGbr (d : BitVec 8) (s : State) : Host.Outcome State Fault Refusal := s.loadInto (s.gbrOperand 4 d) 4 0

/-- `MOVA @(PC,disp), R0`: 47 R414. -/
def execMova (d : BitVec 8) (s : State) : Host.Outcome State Fault Refusal :=
  finish do
    s.requireNoSlot
    pure (s.setX 0 ((s.pcOperand d).setWidth s.W))

/-- `MOV.L/Q @(PC,disp), Rn`: 47 R423. -/
def execMovLqLoadPc (d : BitVec 8) (n : Reg) (s : State) : Host.Outcome State Fault Refusal :=
  finish do
    s.requireNoSlot
    let v ← s.loadPc (s.pcOperand d)
    pure (s.setX n v)

/-- `MOV #imm, Rn`: 47 R424. -/
def execMovImm (imm : BitVec 8) (n : Reg) (s : State) : Host.Outcome State Fault Refusal :=
  .next (s.setX n (imm.signExtend s.W)).advance

/-- `LDSH8 #imm, R0`: 46 R395. -/
def execLdsh8 (imm : BitVec 8) (s : State) : Host.Outcome State Fault Refusal :=
  .next (s.setX 0 ((s.x 0 <<< 8) ||| imm.setWidth s.W)).advance

end Sys2Proof.Machine
end

