-- ==== Sys2Proof/Machine/Shift.lean ====
section
/-!
DEFINITION. Shifts, rotates, extensions, and exchanges of bytes and halves (41, 43, 44, 45).
-/

namespace Sys2Proof.Machine

/-- The count of a dynamic shift: the low 5 bits of the count register at `W` = 32, the low 6 bits at `W` = 64 (44 R349). -/
def shiftCount {w : Nat} (c : BitVec w) : Nat := c.toNat % w

/-- An arithmetic dynamic shift of `v` by `c` (44 R349). -/
def shiftArithmetic {w : Nat} (v c : BitVec w) : BitVec w :=
  if c.msb = false then v <<< shiftCount c
  else if shiftCount c = 0 then (if v.msb then BitVec.allOnes w else 0)
  else v.sshiftRight (w - shiftCount c)

/-- A logical dynamic shift of `v` by `c` (44 R350). -/
def shiftLogical {w : Nat} (v c : BitVec w) : BitVec w :=
  if c.msb = false then v <<< shiftCount c
  else if shiftCount c = 0 then 0
  else v >>> (w - shiftCount c)

/-- The bytes of a DWord in the other order (43 R312). -/
def reverseBytes32 (v : BitVec 32) : BitVec 32 :=
  v.extractLsb' 0 8 ++ v.extractLsb' 8 8 ++ v.extractLsb' 16 8 ++ v.extractLsb' 24 8

/-- The bytes of a QWord in the other order (43 R313). -/
def reverseBytes64 (v : BitVec 64) : BitVec 64 := reverseBytes32 (v.extractLsb' 0 32) ++ reverseBytes32 (v.extractLsb' 32 32)

/-- The two low bytes of a value exchanged (45 R374). -/
def swapLowBytes {w : Nat} (v : BitVec w) : BitVec w :=
  ((v >>> 16) <<< 16) ||| ((v &&& 0xFF) <<< 8) ||| ((v >>> 8) &&& 0xFF)

/-- The two low Words of a value exchanged (45 R375). -/
def swapLowWords {w : Nat} (v : BitVec w) : BitVec w :=
  ((v >>> 32) <<< 32) ||| ((v &&& 0xFFFF) <<< 16) ||| ((v >>> 16) &&& 0xFFFF)

/-- A one-bit shift or rotate: the result into the register, the bit shifted out into `T` (43 R290 to R317). -/
def State.shiftInto (s : State) (n : Reg) (r : BitVec s.W × Bool) : Host.Outcome State Fault Refusal :=
  .next ((s.setX n r.1).putT r.2).advance

/-- `SHLL Rn`: 43 R290. -/
def execShll (n : Reg) (s : State) : Host.Outcome State Fault Refusal := s.shiftInto n (shiftLeftIn (s.x n) false)

/-- `SHAL Rn`: 43 R292. -/
def execShal (n : Reg) (s : State) : Host.Outcome State Fault Refusal := s.shiftInto n (shiftLeftIn (s.x n) false)

/-- `SHLR Rn`: 43 R293. -/
def execShlr (n : Reg) (s : State) : Host.Outcome State Fault Refusal := s.shiftInto n (shiftRightIn (s.x n) false)

/-- `SHAR Rn`: 43 R295. -/
def execShar (n : Reg) (s : State) : Host.Outcome State Fault Refusal :=
  s.shiftInto n (shiftRightIn (s.x n) (s.x n).msb)

/-- `ROTL Rn`: 43 R308. -/
def execRotl (n : Reg) (s : State) : Host.Outcome State Fault Refusal :=
  s.shiftInto n (shiftLeftIn (s.x n) (s.x n).msb)

/-- `ROTCL Rn`: 43 R309. -/
def execRotcl (n : Reg) (s : State) : Host.Outcome State Fault Refusal := s.shiftInto n (shiftLeftIn (s.x n) s.t)

/-- `ROTR Rn`: 43 R315. -/
def execRotr (n : Reg) (s : State) : Host.Outcome State Fault Refusal :=
  s.shiftInto n (shiftRightIn (s.x n) ((s.x n).getLsbD 0))

/-- `ROTCR Rn`: 43 R317. -/
def execRotcr (n : Reg) (s : State) : Host.Outcome State Fault Refusal := s.shiftInto n (shiftRightIn (s.x n) s.t)

/-- `SHLL2 Rn`: 44 R335. -/
def execShll2 (n : Reg) (s : State) : Host.Outcome State Fault Refusal := .next (s.setX n (s.x n <<< 2)).advance

/-- `SHLL8 Rn`: 44 R336. -/
def execShll8 (n : Reg) (s : State) : Host.Outcome State Fault Refusal := .next (s.setX n (s.x n <<< 8)).advance

/-- `SHLL16 Rn`: 44 R337. -/
def execShll16 (n : Reg) (s : State) : Host.Outcome State Fault Refusal := .next (s.setX n (s.x n <<< 16)).advance

/-- `SHLR2 Rn`: 44 R338. -/
def execShlr2 (n : Reg) (s : State) : Host.Outcome State Fault Refusal := .next (s.setX n (s.x n >>> 2)).advance

/-- `SHLR8 Rn`: 44 R339. -/
def execShlr8 (n : Reg) (s : State) : Host.Outcome State Fault Refusal := .next (s.setX n (s.x n >>> 8)).advance

/-- `SHLR16 Rn`: 44 R340. -/
def execShlr16 (n : Reg) (s : State) : Host.Outcome State Fault Refusal := .next (s.setX n (s.x n >>> 16)).advance

/-- `SHAD Rm, Rn`: 44 R349. -/
def execShad (m n : Reg) (s : State) : Host.Outcome State Fault Refusal :=
  .next (s.setX n (shiftArithmetic (s.x n) (s.x m))).advance

/-- `SHLD Rm, Rn`: 44 R350. -/
def execShld (m n : Reg) (s : State) : Host.Outcome State Fault Refusal :=
  .next (s.setX n (shiftLogical (s.x n) (s.x m))).advance

/-- `EXTU.L Rn`: 43 R310. -/
def execExtuL (n : Reg) (s : State) : Host.Outcome State Fault Refusal :=
  .next (s.setX n (((s.x n).setWidth 32).setWidth s.W)).advance

/-- `EXTS.L Rn`: 43 R311. -/
def execExtsL (n : Reg) (s : State) : Host.Outcome State Fault Refusal :=
  .next (s.setX n (((s.x n).setWidth 32).signExtend s.W)).advance

/-- `BSWAP.L Rn`: 43 R312; bits 63:32 become a free value at either width. -/
def execBswapL (n : Reg) (s : State) : Host.Outcome State Fault Refusal :=
  .next (s.setXLow n (reverseBytes32 ((s.x n).setWidth 32))).advance

/-- `BSWAP.Q Rn`: 43 R313; at `W` = 32 the result is a free value. -/
def execBswapQ (n : Reg) (s : State) : Host.Outcome State Fault Refusal :=
  .next (if s.wide then s.setX n (reverseBytes64 ((s.x n).setWidth 64)) else s.setXFree n).advance

/-- `SWAP.L Rn`: 43 R314; at `W` = 32 the result is a free value. -/
def execSwapL (n : Reg) (s : State) : Host.Outcome State Fault Refusal :=
  .next (if s.wide then s.setX n (((s.x n).setWidth 64).extractLsb' 0 32 ++ ((s.x n).setWidth 64).extractLsb' 32 32)
    else s.setXFree n).advance

/-- `SWAP.B Rm, Rn`: 45 R374. -/
def execSwapB (m n : Reg) (s : State) : Host.Outcome State Fault Refusal :=
  .next (s.setX n (swapLowBytes (s.x m))).advance

/-- `SWAP.W Rm, Rn`: 45 R375. -/
def execSwapW (m n : Reg) (s : State) : Host.Outcome State Fault Refusal :=
  .next (s.setX n (swapLowWords (s.x m))).advance

/-- `XTRCT Rm, Rn`: 41 R264. -/
def execXtrct (m n : Reg) (s : State) : Host.Outcome State Fault Refusal :=
  .next (s.setX n ((s.x m <<< (s.W / 2)) ||| (s.x n >>> (s.W / 2)))).advance

/-- `EXTU.B Rm, Rn`: 45 R378. -/
def execExtuB (m n : Reg) (s : State) : Host.Outcome State Fault Refusal :=
  .next (s.setX n (((s.x m).setWidth 8).setWidth s.W)).advance

/-- `EXTS.B Rm, Rn`: 45 R379. -/
def execExtsB (m n : Reg) (s : State) : Host.Outcome State Fault Refusal :=
  .next (s.setX n (((s.x m).setWidth 8).signExtend s.W)).advance

/-- `EXTU.W Rm, Rn`: 45 R380. -/
def execExtuW (m n : Reg) (s : State) : Host.Outcome State Fault Refusal :=
  .next (s.setX n (((s.x m).setWidth 16).setWidth s.W)).advance

/-- `EXTS.W Rm, Rn`: 45 R381. -/
def execExtsW (m n : Reg) (s : State) : Host.Outcome State Fault Refusal :=
  .next (s.setX n (((s.x m).setWidth 16).signExtend s.W)).advance

end Sys2Proof.Machine
end

