-- ==== Sys2Proof/Machine/System.lean ====
section
/-!
DEFINITION. The moves of system and control registers, the single flags, the cache instructions, sleep, and the instructions that
enter a trap or return from one (40, 43, 44, 47, 60).
-/

namespace Sys2Proof.Machine

/-- A control or system register to a general register, after a check (40 R201 to R206, R228 to R232). -/
def copyFrom (check : Except Abort Unit) (r : Special) (n : Reg) (s : State) : Host.Outcome State Fault Refusal :=
  finish do
    check
    pure (s.setX n (s.readSpecial r))

/-- A general register to a control or system register, after a check (44 R341 to R345, R351 to R356). -/
def copyTo (check : Except Abort Unit) (r : Special) (m : Reg) (s : State) : Host.Outcome State Fault Refusal :=
  finish do
    check
    pure (s.writeSpecial r (s.x m))

/-- A control or system register pushed, after a check (43 R296 to R306). -/
def pushFrom (check : Except Abort Unit) (r : Special) (n : Reg) (s : State) : Host.Outcome State Fault Refusal :=
  finish do
    check
    s.pushAt n s.szLQ (s.readSpecial r)

/-- A control or system register popped, after a check: the load, then the increment under the registers in force before,
then the register (43 R318 to R328). -/
def popTo (check : Except Abort Unit) (r : Special) (m : Reg) (s : State) : Host.Outcome State Fault Refusal :=
  finish do
    check
    let (v, s1) ← s.popAt m s.szLQ
    pure (s1.writeSpecial r v)

/-- `STC SR, Rn`: 40 R201. -/
def execStcSr (n : Reg) (s : State) : Host.Outcome State Fault Refusal := copyFrom (s.requirePrivilege (.stcSr n)) .sr n s

/-- `STC GBR, Rn`: 40 R202. -/
def execStcGbr (n : Reg) (s : State) : Host.Outcome State Fault Refusal := copyFrom (.ok ()) .gbr n s

/-- `STC VBR, Rn`: 40 R203. -/
def execStcVbr (n : Reg) (s : State) : Host.Outcome State Fault Refusal := copyFrom (s.requirePrivilege (.stcVbr n)) .vbr n s

/-- `STC SSR, Rn`: 40 R204. -/
def execStcSsr (n : Reg) (s : State) : Host.Outcome State Fault Refusal := copyFrom (s.requirePrivilege (.stcSsr n)) .ssr n s

/-- `STC SPC, Rn`: 40 R205. -/
def execStcSpc (n : Reg) (s : State) : Host.Outcome State Fault Refusal := copyFrom (s.requirePrivilege (.stcSpc n)) .spc n s

/-- `STC DBR, Rn`: 40 R206. -/
def execStcDbr (n : Reg) (s : State) : Host.Outcome State Fault Refusal := copyFrom (s.requirePrivilege (.stcDbr n)) .dbr n s

/-- `STC Rm_B, Rn`: 40 R207. -/
def execStcBank (m : BankReg) (n : Reg) (s : State) : Host.Outcome State Fault Refusal :=
  finish do
    s.requirePrivilege (.stcBank m n)
    pure (s.setX n (s.xOther m))

/-- `STS MACH, Rn`: 40 R228. -/
def execStsMach (n : Reg) (s : State) : Host.Outcome State Fault Refusal := copyFrom (.ok ()) .mach n s

/-- `STS MACL, Rn`: 40 R229. -/
def execStsMacl (n : Reg) (s : State) : Host.Outcome State Fault Refusal := copyFrom (.ok ()) .macl n s

/-- `STS PR, Rn`: 40 R230. -/
def execStsPr (n : Reg) (s : State) : Host.Outcome State Fault Refusal := copyFrom (.ok ()) .pr n s

/-- `STS FPUL, Rn`: 40 R231. -/
def execStsFpul (n : Reg) (s : State) : Host.Outcome State Fault Refusal := copyFrom s.requireFpu .fpul n s

/-- `STS FPSCR, Rn`: 40 R232. -/
def execStsFpscr (n : Reg) (s : State) : Host.Outcome State Fault Refusal := copyFrom s.requireFpu .fpscr n s

/-- `STS.L/Q MACH, @-Rn`: 43 R296. -/
def execStsMachPush (n : Reg) (s : State) : Host.Outcome State Fault Refusal := pushFrom (.ok ()) .mach n s

/-- `STS.L/Q MACL, @-Rn`: 43 R297. -/
def execStsMaclPush (n : Reg) (s : State) : Host.Outcome State Fault Refusal := pushFrom (.ok ()) .macl n s

/-- `STS.L/Q PR, @-Rn`: 43 R298. -/
def execStsPrPush (n : Reg) (s : State) : Host.Outcome State Fault Refusal := pushFrom (.ok ()) .pr n s

/-- `STS.L/Q FPUL, @-Rn`: 43 R299. -/
def execStsFpulPush (n : Reg) (s : State) : Host.Outcome State Fault Refusal := pushFrom s.requireFpu .fpul n s

/-- `STS.L/Q FPSCR, @-Rn`: 43 R300. -/
def execStsFpscrPush (n : Reg) (s : State) : Host.Outcome State Fault Refusal := pushFrom s.requireFpu .fpscr n s

/-- `STC.L/Q SR, @-Rn`: 43 R301. -/
def execStcSrPush (n : Reg) (s : State) : Host.Outcome State Fault Refusal := pushFrom (s.requirePrivilege (.stcSrPush n)) .sr n s

/-- `STC.L/Q GBR, @-Rn`: 43 R302. -/
def execStcGbrPush (n : Reg) (s : State) : Host.Outcome State Fault Refusal := pushFrom (.ok ()) .gbr n s

/-- `STC.L/Q VBR, @-Rn`: 43 R303. -/
def execStcVbrPush (n : Reg) (s : State) : Host.Outcome State Fault Refusal := pushFrom (s.requirePrivilege (.stcVbrPush n)) .vbr n s

/-- `STC.L/Q SSR, @-Rn`: 43 R304. -/
def execStcSsrPush (n : Reg) (s : State) : Host.Outcome State Fault Refusal := pushFrom (s.requirePrivilege (.stcSsrPush n)) .ssr n s

/-- `STC.L/Q SPC, @-Rn`: 43 R305. -/
def execStcSpcPush (n : Reg) (s : State) : Host.Outcome State Fault Refusal := pushFrom (s.requirePrivilege (.stcSpcPush n)) .spc n s

/-- `STC.L/Q DBR, @-Rn`: 43 R306. -/
def execStcDbrPush (n : Reg) (s : State) : Host.Outcome State Fault Refusal := pushFrom (s.requirePrivilege (.stcDbrPush n)) .dbr n s

/-- `STC.L/Q Rm_B, @-Rn`: 43 R307. -/
def execStcBankPush (m : BankReg) (n : Reg) (s : State) : Host.Outcome State Fault Refusal :=
  finish do
    s.requirePrivilege (.stcBankPush m n)
    s.pushAt n s.szLQ (s.xOther m)

/-- `LDS.L/Q @Rm+, MACH`: 43 R318. -/
def execLdsMachPop (m : Reg) (s : State) : Host.Outcome State Fault Refusal := popTo (.ok ()) .mach m s

/-- `LDS.L/Q @Rm+, MACL`: 43 R319. -/
def execLdsMaclPop (m : Reg) (s : State) : Host.Outcome State Fault Refusal := popTo (.ok ()) .macl m s

/-- `LDS.L/Q @Rm+, PR`: 43 R320. -/
def execLdsPrPop (m : Reg) (s : State) : Host.Outcome State Fault Refusal := popTo (.ok ()) .pr m s

/-- `LDS.L/Q @Rm+, FPUL`: 43 R321. -/
def execLdsFpulPop (m : Reg) (s : State) : Host.Outcome State Fault Refusal := popTo s.requireFpu .fpul m s

/-- `LDS.L/Q @Rm+, FPSCR`: 43 R322. -/
def execLdsFpscrPop (m : Reg) (s : State) : Host.Outcome State Fault Refusal := popTo s.requireFpu .fpscr m s

/-- `LDC.L/Q @Rm+, SR`: 43 R323. -/
def execLdcSrPop (m : Reg) (s : State) : Host.Outcome State Fault Refusal := popTo (s.requirePrivilege (.ldcSrPop m)) .sr m s

/-- `LDC.L/Q @Rm+, GBR`: 43 R324. -/
def execLdcGbrPop (m : Reg) (s : State) : Host.Outcome State Fault Refusal := popTo (.ok ()) .gbr m s

/-- `LDC.L/Q @Rm+, VBR`: 43 R325. -/
def execLdcVbrPop (m : Reg) (s : State) : Host.Outcome State Fault Refusal := popTo (s.requirePrivilege (.ldcVbrPop m)) .vbr m s

/-- `LDC.L/Q @Rm+, SSR`: 43 R326. -/
def execLdcSsrPop (m : Reg) (s : State) : Host.Outcome State Fault Refusal := popTo (s.requirePrivilege (.ldcSsrPop m)) .ssr m s

/-- `LDC.L/Q @Rm+, SPC`: 43 R327. -/
def execLdcSpcPop (m : Reg) (s : State) : Host.Outcome State Fault Refusal := popTo (s.requirePrivilege (.ldcSpcPop m)) .spc m s

/-- `LDC.L/Q @Rm+, DBR`: 43 R328. -/
def execLdcDbrPop (m : Reg) (s : State) : Host.Outcome State Fault Refusal := popTo (s.requirePrivilege (.ldcDbrPop m)) .dbr m s

/-- `LDC.L/Q @Rm+, Rn_B`: 43 R329. -/
def execLdcBankPop (m : Reg) (n : BankReg) (s : State) : Host.Outcome State Fault Refusal :=
  finish do
    s.requirePrivilege (.ldcBankPop m n)
    let (v, s1) ← s.popAt m s.szLQ
    pure (s1.setXOther n v)

/-- `LDS Rm, MACH`: 44 R341. -/
def execLdsMach (m : Reg) (s : State) : Host.Outcome State Fault Refusal := copyTo (.ok ()) .mach m s

/-- `LDS Rm, MACL`: 44 R342. -/
def execLdsMacl (m : Reg) (s : State) : Host.Outcome State Fault Refusal := copyTo (.ok ()) .macl m s

/-- `LDS Rm, PR`: 44 R343. -/
def execLdsPr (m : Reg) (s : State) : Host.Outcome State Fault Refusal := copyTo (.ok ()) .pr m s

/-- `LDS Rm, FPUL`: 44 R344. -/
def execLdsFpul (m : Reg) (s : State) : Host.Outcome State Fault Refusal := copyTo s.requireFpu .fpul m s

/-- `LDS Rm, FPSCR`: 44 R345. -/
def execLdsFpscr (m : Reg) (s : State) : Host.Outcome State Fault Refusal := copyTo s.requireFpu .fpscr m s

/-- `LDC Rm, SR`: 44 R351. -/
def execLdcSr (m : Reg) (s : State) : Host.Outcome State Fault Refusal := copyTo (s.requirePrivilege (.ldcSr m)) .sr m s

/-- `LDC Rm, GBR`: 44 R352. -/
def execLdcGbr (m : Reg) (s : State) : Host.Outcome State Fault Refusal := copyTo (.ok ()) .gbr m s

/-- `LDC Rm, VBR`: 44 R353. -/
def execLdcVbr (m : Reg) (s : State) : Host.Outcome State Fault Refusal := copyTo (s.requirePrivilege (.ldcVbr m)) .vbr m s

/-- `LDC Rm, SSR`: 44 R354. -/
def execLdcSsr (m : Reg) (s : State) : Host.Outcome State Fault Refusal := copyTo (s.requirePrivilege (.ldcSsr m)) .ssr m s

/-- `LDC Rm, SPC`: 44 R355. -/
def execLdcSpc (m : Reg) (s : State) : Host.Outcome State Fault Refusal := copyTo (s.requirePrivilege (.ldcSpc m)) .spc m s

/-- `LDC Rm, DBR`: 44 R356. -/
def execLdcDbr (m : Reg) (s : State) : Host.Outcome State Fault Refusal := copyTo (s.requirePrivilege (.ldcDbr m)) .dbr m s

/-- `LDC Rm, Rn_B`: 44 R357. -/
def execLdcBank (m : Reg) (n : BankReg) (s : State) : Host.Outcome State Fault Refusal :=
  finish do
    s.requirePrivilege (.ldcBank m n)
    pure (s.setXOther n (s.x m))

/-- `CLRT`: 40 R216. -/
def execClrt (s : State) : Host.Outcome State Fault Refusal := .next (s.putT false).advance

/-- `SETT`: 40 R217. -/
def execSett (s : State) : Host.Outcome State Fault Refusal := .next (s.putT true).advance

/-- `CLRS`: 40 R219. -/
def execClrs (s : State) : Host.Outcome State Fault Refusal := .next (s.putSatur false).advance

/-- `SETS`: 40 R220. -/
def execSets (s : State) : Host.Outcome State Fault Refusal := .next (s.putSatur true).advance

/-- `CLRDQ`: 40 R221. -/
def execClrdq (s : State) : Host.Outcome State Fault Refusal := .next (s.putDQ false).advance

/-- `SETDQ`: 40 R222. -/
def execSetdq (s : State) : Host.Outcome State Fault Refusal := .next (s.putDQ true).advance

/-- `CLRMAC`: 40 R218. -/
def execClrmac (s : State) : Host.Outcome State Fault Refusal :=
  .next ((s.writeSpecial .mach (0 : BitVec s.W)).writeSpecial .macl (0 : BitVec s.W)).advance

/-- `DIV0U`: 40 R226. -/
def execDiv0u (s : State) : Host.Outcome State Fault Refusal := .next (((s.putM false).putQ false).putT false).advance

/-- `MOVT Rn`: 40 R227. -/
def execMovt (n : Reg) (s : State) : Host.Outcome State Fault Refusal :=
  .next (s.setX n (BitVec.ofNat s.W s.t.toNat)).advance

/-- `NOP`: 40 R225. -/
def execNop (s : State) : Host.Outcome State Fault Refusal := .next s.advance

/-- `PREF @Rn`: 40 R210. It makes no access, whatever the register holds. -/
def execPref (_n : Reg) (s : State) : Host.Outcome State Fault Refusal := .next s.advance

/-- `FLUSHTLB`: 40 R223; the tags are its one effect (20 R113). -/
def execFlushtlb (s : State) : Host.Outcome State Fault Refusal :=
  finish do
    s.requirePrivilege .flushtlb
    pure { s with xtag := [] }

/-- `INVTLB`: 40 R224; the tags are its one effect (20 R113). -/
def execInvtlb (s : State) : Host.Outcome State Fault Refusal :=
  finish do
    s.requirePrivilege .invtlb
    pure { s with xtag := [] }

/-- `SLEEP`: 40 R234, 60 R539. -/
def execSleep (s : State) : Host.Outcome State Fault Refusal :=
  finish do
    s.requirePrivilege .sleep
    pure { s with asleep := true }

/-- `BRK`: 40 R236, 60 R505. -/
def execBrk (s : State) : Host.Outcome State Fault Refusal := trapEntry .breakpoint s

/-- `TRAPA #imm`: 47 R410, 60 R507. -/
def execTrapa (imm : BitVec 8) (s : State) : Host.Outcome State Fault Refusal :=
  settle do
    s.requireNoSlot
    .error (.raise (.trap imm) s)

/-- `RTE`: 40 R235, 60 R520. -/
def execRte (s : State) : Host.Outcome State Fault Refusal :=
  settle do
    s.requirePrivilege .rte
    s.requireNoSlot
    pure s.returnFromException

end Sys2Proof.Machine
end

