-- ==== Sys2Proof/Machine/Dispatch.lean ====
section
/-!
DEFINITION. The meaning of every instruction, one arm for each constructor.
-/

namespace Sys2Proof.Machine

/-- One instruction, its words already fetched. -/
def exec (i : Instr) (s : State) : Host.Outcome State Fault Refusal :=
  match i with
  | .stcSr n => Sys2Proof.Machine.execStcSr n s
  | .stcGbr n => Sys2Proof.Machine.execStcGbr n s
  | .stcVbr n => Sys2Proof.Machine.execStcVbr n s
  | .stcSsr n => Sys2Proof.Machine.execStcSsr n s
  | .stcSpc n => Sys2Proof.Machine.execStcSpc n s
  | .stcDbr n => Sys2Proof.Machine.execStcDbr n s
  | .stcBank m n => Sys2Proof.Machine.execStcBank m n s
  | .bsrf m => Sys2Proof.Machine.execBsrf m s
  | .bsaf m => Sys2Proof.Machine.execBsaf m s
  | .pref n => Sys2Proof.Machine.execPref n s
  | .movcaL n => Sys2Proof.Machine.execMovcaL n s
  | .movBStoreIdx m n => Sys2Proof.Machine.execMovBStoreIdx m n s
  | .movWqStoreIdx m n => Sys2Proof.Machine.execMovWqStoreIdx m n s
  | .movLStoreIdx m n => Sys2Proof.Machine.execMovLStoreIdx m n s
  | .mulLq m n => Sys2Proof.Machine.execMulLq m n s
  | .movt n => Sys2Proof.Machine.execMovt n s
  | .stsMach n => Sys2Proof.Machine.execStsMach n s
  | .stsMacl n => Sys2Proof.Machine.execStsMacl n s
  | .stsPr n => Sys2Proof.Machine.execStsPr n s
  | .stsFpul n => Sys2Proof.Machine.execStsFpul n s
  | .stsFpscr n => Sys2Proof.Machine.execStsFpscr n s
  | .movBLoadIdx m n => Sys2Proof.Machine.execMovBLoadIdx m n s
  | .movWqLoadIdx m n => Sys2Proof.Machine.execMovWqLoadIdx m n s
  | .movLLoadIdx m n => Sys2Proof.Machine.execMovLLoadIdx m n s
  | .macL m n => Sys2Proof.Machine.execMacL m n s
  | .movLStoreDisp m n d => Sys2Proof.Machine.execMovLStoreDisp m n d s
  | .movBStore m n => Sys2Proof.Machine.execMovBStore m n s
  | .movWqStore m n => Sys2Proof.Machine.execMovWqStore m n s
  | .movLStore m n => Sys2Proof.Machine.execMovLStore m n s
  | .casL m n => Sys2Proof.Machine.execCasL m n s
  | .movBPush m n => Sys2Proof.Machine.execMovBPush m n s
  | .movWqPush m n => Sys2Proof.Machine.execMovWqPush m n s
  | .movLPush m n => Sys2Proof.Machine.execMovLPush m n s
  | .div0s m n => Sys2Proof.Machine.execDiv0s m n s
  | .tst m n => Sys2Proof.Machine.execTst m n s
  | .and m n => Sys2Proof.Machine.execAnd m n s
  | .xor m n => Sys2Proof.Machine.execXor m n s
  | .or m n => Sys2Proof.Machine.execOr m n s
  | .cmpstr m n => Sys2Proof.Machine.execCmpstr m n s
  | .xtrct m n => Sys2Proof.Machine.execXtrct m n s
  | .muluWl m n => Sys2Proof.Machine.execMuluWl m n s
  | .mulsWl m n => Sys2Proof.Machine.execMulsWl m n s
  | .cmpeq m n => Sys2Proof.Machine.execCmpeq m n s
  | .cmphs m n => Sys2Proof.Machine.execCmphs m n s
  | .cmpge m n => Sys2Proof.Machine.execCmpge m n s
  | .div1 m n => Sys2Proof.Machine.execDiv1 m n s
  | .dmuluLq m n => Sys2Proof.Machine.execDmuluLq m n s
  | .cmphi m n => Sys2Proof.Machine.execCmphi m n s
  | .cmpgt m n => Sys2Proof.Machine.execCmpgt m n s
  | .sub m n => Sys2Proof.Machine.execSub m n s
  | .subc m n => Sys2Proof.Machine.execSubc m n s
  | .subv m n => Sys2Proof.Machine.execSubv m n s
  | .add m n => Sys2Proof.Machine.execAdd m n s
  | .dmulsLq m n => Sys2Proof.Machine.execDmulsLq m n s
  | .addc m n => Sys2Proof.Machine.execAddc m n s
  | .addv m n => Sys2Proof.Machine.execAddv m n s
  | .shll n => Sys2Proof.Machine.execShll n s
  | .dt n => Sys2Proof.Machine.execDt n s
  | .shal n => Sys2Proof.Machine.execShal n s
  | .shlr n => Sys2Proof.Machine.execShlr n s
  | .cmppz n => Sys2Proof.Machine.execCmppz n s
  | .shar n => Sys2Proof.Machine.execShar n s
  | .stsMachPush n => Sys2Proof.Machine.execStsMachPush n s
  | .stsMaclPush n => Sys2Proof.Machine.execStsMaclPush n s
  | .stsPrPush n => Sys2Proof.Machine.execStsPrPush n s
  | .stsFpulPush n => Sys2Proof.Machine.execStsFpulPush n s
  | .stsFpscrPush n => Sys2Proof.Machine.execStsFpscrPush n s
  | .stcSrPush n => Sys2Proof.Machine.execStcSrPush n s
  | .stcGbrPush n => Sys2Proof.Machine.execStcGbrPush n s
  | .stcVbrPush n => Sys2Proof.Machine.execStcVbrPush n s
  | .stcSsrPush n => Sys2Proof.Machine.execStcSsrPush n s
  | .stcSpcPush n => Sys2Proof.Machine.execStcSpcPush n s
  | .stcDbrPush n => Sys2Proof.Machine.execStcDbrPush n s
  | .stcBankPush m n => Sys2Proof.Machine.execStcBankPush m n s
  | .rotl n => Sys2Proof.Machine.execRotl n s
  | .rotcl n => Sys2Proof.Machine.execRotcl n s
  | .extuL n => Sys2Proof.Machine.execExtuL n s
  | .extsL n => Sys2Proof.Machine.execExtsL n s
  | .bswapL n => Sys2Proof.Machine.execBswapL n s
  | .bswapQ n => Sys2Proof.Machine.execBswapQ n s
  | .swapL n => Sys2Proof.Machine.execSwapL n s
  | .rotr n => Sys2Proof.Machine.execRotr n s
  | .cmppl n => Sys2Proof.Machine.execCmppl n s
  | .rotcr n => Sys2Proof.Machine.execRotcr n s
  | .ldsMachPop m => Sys2Proof.Machine.execLdsMachPop m s
  | .ldsMaclPop m => Sys2Proof.Machine.execLdsMaclPop m s
  | .ldsPrPop m => Sys2Proof.Machine.execLdsPrPop m s
  | .ldsFpulPop m => Sys2Proof.Machine.execLdsFpulPop m s
  | .ldsFpscrPop m => Sys2Proof.Machine.execLdsFpscrPop m s
  | .ldcSrPop m => Sys2Proof.Machine.execLdcSrPop m s
  | .ldcGbrPop m => Sys2Proof.Machine.execLdcGbrPop m s
  | .ldcVbrPop m => Sys2Proof.Machine.execLdcVbrPop m s
  | .ldcSsrPop m => Sys2Proof.Machine.execLdcSsrPop m s
  | .ldcSpcPop m => Sys2Proof.Machine.execLdcSpcPop m s
  | .ldcDbrPop m => Sys2Proof.Machine.execLdcDbrPop m s
  | .ldcBankPop m n => Sys2Proof.Machine.execLdcBankPop m n s
  | .shll2 n => Sys2Proof.Machine.execShll2 n s
  | .shll8 n => Sys2Proof.Machine.execShll8 n s
  | .shll16 n => Sys2Proof.Machine.execShll16 n s
  | .shlr2 n => Sys2Proof.Machine.execShlr2 n s
  | .shlr8 n => Sys2Proof.Machine.execShlr8 n s
  | .shlr16 n => Sys2Proof.Machine.execShlr16 n s
  | .ldsMach m => Sys2Proof.Machine.execLdsMach m s
  | .ldsMacl m => Sys2Proof.Machine.execLdsMacl m s
  | .ldsPr m => Sys2Proof.Machine.execLdsPr m s
  | .ldsFpul m => Sys2Proof.Machine.execLdsFpul m s
  | .ldsFpscr m => Sys2Proof.Machine.execLdsFpscr m s
  | .jsr m => Sys2Proof.Machine.execJsr m s
  | .tasB m => Sys2Proof.Machine.execTasB m s
  | .jmp m => Sys2Proof.Machine.execJmp m s
  | .shad m n => Sys2Proof.Machine.execShad m n s
  | .shld m n => Sys2Proof.Machine.execShld m n s
  | .ldcSr m => Sys2Proof.Machine.execLdcSr m s
  | .ldcGbr m => Sys2Proof.Machine.execLdcGbr m s
  | .ldcVbr m => Sys2Proof.Machine.execLdcVbr m s
  | .ldcSsr m => Sys2Proof.Machine.execLdcSsr m s
  | .ldcSpc m => Sys2Proof.Machine.execLdcSpc m s
  | .ldcDbr m => Sys2Proof.Machine.execLdcDbr m s
  | .ldcBank m n => Sys2Proof.Machine.execLdcBank m n s
  | .macWq m n => Sys2Proof.Machine.execMacWq m n s
  | .movLLoadDisp m d n => Sys2Proof.Machine.execMovLLoadDisp m d n s
  | .movBLoad m n => Sys2Proof.Machine.execMovBLoad m n s
  | .movWqLoad m n => Sys2Proof.Machine.execMovWqLoad m n s
  | .movLLoad m n => Sys2Proof.Machine.execMovLLoad m n s
  | .mov m n => Sys2Proof.Machine.execMov m n s
  | .movBPop m n => Sys2Proof.Machine.execMovBPop m n s
  | .movWqPop m n => Sys2Proof.Machine.execMovWqPop m n s
  | .movLPop m n => Sys2Proof.Machine.execMovLPop m n s
  | .not m n => Sys2Proof.Machine.execNot m n s
  | .swapB m n => Sys2Proof.Machine.execSwapB m n s
  | .swapW m n => Sys2Proof.Machine.execSwapW m n s
  | .negc m n => Sys2Proof.Machine.execNegc m n s
  | .neg m n => Sys2Proof.Machine.execNeg m n s
  | .extuB m n => Sys2Proof.Machine.execExtuB m n s
  | .extsB m n => Sys2Proof.Machine.execExtsB m n s
  | .extuW m n => Sys2Proof.Machine.execExtuW m n s
  | .extsW m n => Sys2Proof.Machine.execExtsW m n s
  | .addImm imm n => Sys2Proof.Machine.execAddImm imm n s
  | .movBStoreR0Disp n d => Sys2Proof.Machine.execMovBStoreR0Disp n d s
  | .movWqStoreR0Disp n d => Sys2Proof.Machine.execMovWqStoreR0Disp n d s
  | .movWStoreR0 n => Sys2Proof.Machine.execMovWStoreR0 n s
  | .movBLoadR0Disp m d => Sys2Proof.Machine.execMovBLoadR0Disp m d s
  | .movWqLoadR0Disp m d => Sys2Proof.Machine.execMovWqLoadR0Disp m d s
  | .movWLoadR0 m => Sys2Proof.Machine.execMovWLoadR0 m s
  | .cmpeqImm imm => Sys2Proof.Machine.execCmpeqImm imm s
  | .bt d => Sys2Proof.Machine.execBt d s
  | .bf d => Sys2Proof.Machine.execBf d s
  | .ldsh8 imm => Sys2Proof.Machine.execLdsh8 imm s
  | .bts d => Sys2Proof.Machine.execBts d s
  | .bfs d => Sys2Proof.Machine.execBfs d s
  | .movWqLoadDisp m d n => Sys2Proof.Machine.execMovWqLoadDisp m d n s
  | .movWLoad m n => Sys2Proof.Machine.execMovWLoad m n s
  | .bra d => Sys2Proof.Machine.execBra d s
  | .bsr d => Sys2Proof.Machine.execBsr d s
  | .movBStoreGbr d => Sys2Proof.Machine.execMovBStoreGbr d s
  | .movWqStoreGbr d => Sys2Proof.Machine.execMovWqStoreGbr d s
  | .movLStoreGbr d => Sys2Proof.Machine.execMovLStoreGbr d s
  | .trapa j => Sys2Proof.Machine.execTrapa j s
  | .movBLoadGbr d => Sys2Proof.Machine.execMovBLoadGbr d s
  | .movWqLoadGbr d => Sys2Proof.Machine.execMovWqLoadGbr d s
  | .movLLoadGbr d => Sys2Proof.Machine.execMovLLoadGbr d s
  | .mova d => Sys2Proof.Machine.execMova d s
  | .tstImm j => Sys2Proof.Machine.execTstImm j s
  | .andImm j => Sys2Proof.Machine.execAndImm j s
  | .xorImm j => Sys2Proof.Machine.execXorImm j s
  | .orImm j => Sys2Proof.Machine.execOrImm j s
  | .tstB j => Sys2Proof.Machine.execTstB j s
  | .andB j => Sys2Proof.Machine.execAndB j s
  | .xorB j => Sys2Proof.Machine.execXorB j s
  | .orB j => Sys2Proof.Machine.execOrB j s
  | .movLqLoadPc d n => Sys2Proof.Machine.execMovLqLoadPc d n s
  | .movImm imm n => Sys2Proof.Machine.execMovImm imm n s
  | .fadd m n => Sys2Proof.Machine.execFadd m n s
  | .fsub m n => Sys2Proof.Machine.execFsub m n s
  | .fmul m n => Sys2Proof.Machine.execFmul m n s
  | .fdiv m n => Sys2Proof.Machine.execFdiv m n s
  | .fcmpeq m n => Sys2Proof.Machine.execFcmpeq m n s
  | .fcmpgt m n => Sys2Proof.Machine.execFcmpgt m n s
  | .fmovLoadIdx m n => Sys2Proof.Machine.execFmovLoadIdx m n s
  | .fmovStoreIdx m n => Sys2Proof.Machine.execFmovStoreIdx m n s
  | .fmovLoad m n => Sys2Proof.Machine.execFmovLoad m n s
  | .fmovPop m n => Sys2Proof.Machine.execFmovPop m n s
  | .fmovStore m n => Sys2Proof.Machine.execFmovStore m n s
  | .fmovPush m n => Sys2Proof.Machine.execFmovPush m n s
  | .fmov m n => Sys2Proof.Machine.execFmov m n s
  | .fsts n => Sys2Proof.Machine.execFsts n s
  | .flds m => Sys2Proof.Machine.execFlds m s
  | .float n => Sys2Proof.Machine.execFloat n s
  | .ftrc m => Sys2Proof.Machine.execFtrc m s
  | .fneg n => Sys2Proof.Machine.execFneg n s
  | .fabs n => Sys2Proof.Machine.execFabs n s
  | .fsqrt n => Sys2Proof.Machine.execFsqrt n s
  | .fldi0 n => Sys2Proof.Machine.execFldi0 n s
  | .fldi1 n => Sys2Proof.Machine.execFldi1 n s
  | .fcnvsd n => Sys2Proof.Machine.execFcnvsd n s
  | .fcnvds m => Sys2Proof.Machine.execFcnvds m s
  | .fmac m n => Sys2Proof.Machine.execFmac m n s
  | .ldfatMov24 imm n => Sys2Proof.Machine.execLdfatMov24 imm n s
  | .ldfatMov40 imm n => Sys2Proof.Machine.execLdfatMov40 imm n s
  | .ldfatMov56 imm n => Sys2Proof.Machine.execLdfatMov56 imm n s
  | .ldfatBra d => Sys2Proof.Machine.execLdfatBra d s
  | .ldfatBsr d => Sys2Proof.Machine.execLdfatBsr d s
  | .fatBsr44 d => Sys2Proof.Machine.execFatBsr44 d s
  | .fatBsr60 d => Sys2Proof.Machine.execFatBsr60 d s
  | .ocbi x => Sys2Proof.Machine.execOcbi x s
  | .ocbp x => Sys2Proof.Machine.execOcbp x s
  | .ocbwb x => Sys2Proof.Machine.execOcbwb x s
  | .movrt x => Sys2Proof.Machine.execMovrt x s
  | .stcTbr x => Sys2Proof.Machine.execStcTbr x s
  | .rtvN x => Sys2Proof.Machine.execRtvN x s
  | .mulr x => Sys2Proof.Machine.execMulr x s
  | .movmuPush x => Sys2Proof.Machine.execMovmuPush x s
  | .clipuB x => Sys2Proof.Machine.execClipuB x s
  | .clipsB x => Sys2Proof.Machine.execClipsB x s
  | .stbank x => Sys2Proof.Machine.execStbank x s
  | .movmlPush x => Sys2Proof.Machine.execMovmlPush x s
  | .divu x => Sys2Proof.Machine.execDivu x s
  | .movmuPop x => Sys2Proof.Machine.execMovmuPop x s
  | .clipuW x => Sys2Proof.Machine.execClipuW x s
  | .clipsW x => Sys2Proof.Machine.execClipsW x s
  | .ldbank x => Sys2Proof.Machine.execLdbank x s
  | .movmlPop x => Sys2Proof.Machine.execMovmlPop x s
  | .ldcTbr x => Sys2Proof.Machine.execLdcTbr x s
  | .jsrN x => Sys2Proof.Machine.execJsrN x s
  | .movBR0Post x => Sys2Proof.Machine.execMovBR0Post x s
  | .movWR0Post x => Sys2Proof.Machine.execMovWR0Post x s
  | .movLR0Post x => Sys2Proof.Machine.execMovLR0Post x s
  | .movBR0Pre x => Sys2Proof.Machine.execMovBR0Pre x s
  | .movWR0Pre x => Sys2Proof.Machine.execMovWR0Pre x s
  | .movLR0Pre x => Sys2Proof.Machine.execMovLR0Pre x s
  | .jsrN8 x => Sys2Proof.Machine.execJsrN8 x s
  | .bset x => Sys2Proof.Machine.execBset x s
  | .bst x => Sys2Proof.Machine.execBst x s
  | .ftrv x => Sys2Proof.Machine.execFtrv x s
  | .fipr x => Sys2Proof.Machine.execFipr x s
  | .unused w => Sys2Proof.Machine.execUnused w s
  | .reserved w => Sys2Proof.Machine.execReserved w s
  | .unlisted w => Sys2Proof.Machine.execUnlisted w s
  | .clrt => Sys2Proof.Machine.execClrt s
  | .sett => Sys2Proof.Machine.execSett s
  | .clrmac => Sys2Proof.Machine.execClrmac s
  | .clrs => Sys2Proof.Machine.execClrs s
  | .sets => Sys2Proof.Machine.execSets s
  | .clrdq => Sys2Proof.Machine.execClrdq s
  | .setdq => Sys2Proof.Machine.execSetdq s
  | .flushtlb => Sys2Proof.Machine.execFlushtlb s
  | .invtlb => Sys2Proof.Machine.execInvtlb s
  | .nop => Sys2Proof.Machine.execNop s
  | .div0u => Sys2Proof.Machine.execDiv0u s
  | .rts => Sys2Proof.Machine.execRts s
  | .sleep => Sys2Proof.Machine.execSleep s
  | .rte => Sys2Proof.Machine.execRte s
  | .brk => Sys2Proof.Machine.execBrk s
  | .ldfatL => Sys2Proof.Machine.execLdfatL s
  | .ldfatQ => Sys2Proof.Machine.execLdfatQ s
  | .fschg => Sys2Proof.Machine.execFschg s
  | .ldtlb => Sys2Proof.Machine.execLdtlb s
  | .nott => Sys2Proof.Machine.execNott s
  | .resbank => Sys2Proof.Machine.execResbank s
  | .rtsN => Sys2Proof.Machine.execRtsN s
  | .frchg => Sys2Proof.Machine.execFrchg s

end Sys2Proof.Machine
end

