-- ==== Sys2Proof/Machine/Fetch.lean ====
section
/-!
DEFINITION. What comes before an instruction: the acceptance of an interrupt (60 R506), the fetch of its words with the
executed-code restriction (20 R110, R111, 60 R516), start-up (70 R560 to R563), and the bytes of an instruction placed
where the next step fetches.
-/

namespace Sys2Proof.Machine

/-- The request that the platform presents at the boundary before this step (60 R506, log 13). -/
def State.presented (s : State) : Option IrqRequest :=
  match s.irqInput with
  | some r :: _ => some r
  | _ => none

/-- Whether a request is accepted: no delay slot pending, interrupts not blocked, a level above the mask (60 R506). -/
def State.accepts (s : State) (r : IrqRequest) : Bool := s.slot.isNone && !s.bl && s.im.ult r.level

/-- The request that this step accepts, if any (60 R506). -/
def State.accepted (s : State) : Option IrqRequest := s.presented.filter s.accepts

/-- The state with the boundary's entry of the interrupt input consumed (log 13). -/
def State.passBoundary (s : State) : State := { s with irqInput := s.irqInput.tail }

/-- Whether the combination of `SR.AQ` and `SR.DQ` may execute (10 R62). -/
def State.modeAllowed (s : State) : Bool := !s.aq || s.dq || s.params.allowAQwithoutDQ

/-- The flag tuple of an executed address where it differs from the one in force (20 R110). -/
def State.flagsClash (s : State) (a : BitVec 64) : Bool :=
  match Tags.find s.xtag a.toNat with
  | some t => t.flags != s.modeFlags
  | none => false

/-- The fetch of one instruction word at a normalised address: the checks of an access, the executed-code restriction, the
word in the machine byte order, and the address tagged as executed (60 R516). -/
def State.fetchWord (s : State) (a : BitVec 64) : Except Abort (InstrWord × State) := do
  s.checkAccess .fetch a 2 2
  if s.flagsClash a then .error (.fault .undefinedFlags)
  else if Tags.dirtyAt s.params.icacheShift a.toNat s.xtag then .error (.fault .undefinedModified)
  else .ok (s.valueAt s.machineOrder a 2, { s with xtag := Tags.record s.xtag ⟨a.toNat, s.modeFlags, false⟩ })

/-- The fetch of further words of one instruction, the first `offset` bytes after its start (49 R470). -/
def State.fetchMore : Nat → BitVec 64 → State → Except Abort (List InstrWord × State)
  | 0, _, s => .ok ([], s)
  | count + 1, offset, s => do
    let (w, s1) ← s.fetchWord (s.pcPlus offset)
    let (ws, s2) ← State.fetchMore count (offset + 2) s1
    pure (w :: ws, s2)

/-- `pc[1]`: the parity of the word index of the program counter (49 R471). -/
def State.wordParity (s : State) : Bool := s.pc.getLsbD 1

/-- How many words follow the operation word `w1` of a fat load with the prefix `w0`: none where there is no layout
(49 R471 to R477). -/
def extensionWords (odd : Bool) (w0 w1 : InstrWord) : Nat :=
  if w0 = 0x008B#16 then (if nibble3 w1 = 0xE ∨ nibble3 w1 = 0xA ∨ nibble3 w1 = 0xB then 1 else 0)
  else if nibble3 w1 = 0xE then (if odd then 3 else 2)
  else 0

/-- The fetch of the words of the instruction at the program counter: one, and the rest of a fat load where the machine has
them (30 R140, R157, 49 R470). -/
def State.fetchWords (s : State) : Except Abort (List InstrWord × State) := do
  let (w0, s1) ← s.fetchWord s.pc
  if s.params.hasFatLoad ∧ (w0 = 0x008B#16 ∨ w0 = 0x009B#16) then
    let (w1, s2) ← s1.fetchWord (s.pcPlus 2)
    let (ws, s3) ← s2.fetchMore (extensionWords s.wordParity w0 w1) 4
    pure (w0 :: w1 :: ws, s3)
  else pure ([w0], s1)

/-! Start-up. -/

/-- The start-up block's bytes from an offset on (70 R560). -/
def startBytes (m : List Host.Cell) (offset : Nat) : List Byte := Memory.readBytes m (Config.startBlock + offset) 4

/-- The byte order in which the magic reads correctly, if one does (70 R562). -/
def startOrder (m : List Host.Cell) : Option ByteOrder :=
  if startBytes m 12 = [0x42, 0x4A, 0x30, 0x41] then some .big
  else if startBytes m 12 = [0x41, 0x30, 0x4A, 0x42] then some .little
  else none

/-- A DWord of the start-up block in a byte order (70 R560). -/
def startWord (m : List Host.Cell) (o : ByteOrder) (offset : Nat) : BitVec 32 :=
  BitVec.ofNat 32 (o.value (startBytes m offset))

/-- Start-up (70 R560 to R563): from a memory, a platform with its other parameters, and the interrupt input, the state in
which execution begins, or a refusal. The registers that the spec leaves unspecified are those of log 3. -/
def startUp (m : List Host.Cell) (p : Params) (irq : List (Option IrqRequest)) : Host.Outcome State Fault Refusal :=
  if p.hasMMU then .refused .mmu
  else if ((List.range 16).map fun k => areaAt p.platform (Config.startBlock + k)).any (fun a => a == .absent || a == .device) then
    .refused .startAbsent
  else match startOrder m with
    | none => .refused .startMagic
    | some o =>
      let s : State := { State.reset with
        mem := m
        params := p
        irqInput := irq
        sr := putBit ((startWord m o 8).setWidth 64) 23 (o == .little)
        pc := (startWord m o 0).signExtend 64 }
      if (startWord m o 0).getLsbD 0 then .refused .startOddPc
      else if !s.modeAllowed then .refused .aqWithoutDq
      else .next (s.putReg 15
        ⟨if s.wide then ((startWord m o 4).signExtend 64).extractLsb' 32 32 else 0, startWord m o 4⟩)

/-! Placing an instruction. -/

/-- The state with a `LDFAT.Q` of five words at an odd word index, where alone it has that length (49 R471). -/
def State.atTablePlace (s : State) (nbits : Nat) : State :=
  if tableParity nbits then { s with pc := (s.pc &&& ~~~3#64) ||| 2#64 } else s

/-- The state with an instruction of `nbits` bits stored where the next step fetches it, in the machine byte order, and
nothing in the way of its fetch: awake, no request presented, no address tagged, at a place where it has its length. -/
def State.placeInstr (s : State) (nbits w : Nat) : State :=
  let t := s.atTablePlace nbits
  { t with
    mem := Memory.writeBytes t.mem t.pc.toNat ((tableWords 5 (w % 2 ^ nbits)).flatMap (bytesOfWord t.me))
    xtag := []
    asleep := false
    irqInput := [] }

end Sys2Proof.Machine
end

