-- ==== Sys2Proof/Machine/Step.lean ====
section
/-!
DEFINITION. One step of the machine: at the boundary an accepted interrupt is taken, or a sleeping core stays asleep, or one
instruction is fetched, decoded and executed, in the order of 60 R508 and R516.
-/

namespace Sys2Proof.Machine

/-- The instruction at the program counter, fetched, decoded, and executed if the mode may run it (60 R508, R516, R531). The meanings
of the instructions that 60 R531 lists check their privilege themselves; this check is the one for every other instruction that
`Privileged` may hold (log 24). -/
def State.runInstr (s : State) : Host.Outcome State Fault Refusal :=
  match s.fetchWords with
  | .error e => e.outcome
  | .ok (ws, s1) =>
    match decode s.wordParity ws with
    | .ok (i, _) => if s1.mayRun i then exec i s1 else trapEntry .illegalInstruction s1
    | .error _ => .refused .truncatedFetch

/-- Whether the run has ended: an instruction would be fetched at `EndPC`, with no delay slot pending and no interrupt accepted
(70 R578, D34). -/
def State.final (s : State) : Bool :=
  s.accepted.isNone && !s.asleep && s.modeAllowed && s.slot.isNone && s.params.endPC == some s.pc

/-- One step (60 R508). A machine with an MMU is refused (20 R117); a final state stays as it is, and the instruction there is not
executed (70 R578). -/
def step (s : State) : Host.Outcome State Fault Refusal :=
  if s.params.hasMMU then .refused .mmu
  else if s.final then .next s
  else match s.accepted with
  | some r => trapEntry (.interrupt r.level) s.passBoundary
  | none =>
    if s.asleep then .next s.passBoundary
    else if s.modeAllowed then s.passBoundary.runInstr
    else .refused .aqWithoutDq

/-- The state with an instruction of `nbits` bits stored where the next step fetches it, so that the step runs it. -/
def State.withFetchWord (s : State) (nbits w : Nat) : State := s.placeInstr nbits w

end Sys2Proof.Machine
end

