-- ==== Sys2Proof/Safety.lean ====
section
/-!
DEFINITION. The words that claims use: the invariant of a machine state, what an access needs, what an instruction may touch
(its footprint and frame), where it leaves the program counter, and what it means that it completes, traps or is refused.
-/

namespace Sys2Proof.Machine

/-! Registers as numbers. -/

/-- `x[i]` as an unsigned number. -/
def State.xNat (s : State) (i : Reg) : Nat := (s.x i).toNat

/-- `x[i]` as a signed number. -/
def State.xInt (s : State) (i : Reg) : Int := (s.x i).toInt

/-- Bit `k` of `x[i]`; false from bit `W` on. -/
def State.xBit (s : State) (i : Reg) (k : Nat) : Bool := (s.x i).getLsbD k

/-- The low `W` bits of a system or control register as an unsigned number (10 R26). -/
def State.spNat (s : State) (r : Special) : Nat := (s.readSpecial r).toNat

/-- A register of the inactive bank as an unsigned number of `W` bits (10 R24). -/
def State.otherNat (s : State) (i : BankReg) : Nat := (s.xOther i).toNat

/-- The register that `i` names in `s`, as it stands in `t`: an unsigned number at the width of `s`. An instruction that writes `SR`
and a general register writes the one that its number names before it, whatever `BankSel` tests (10 R23, log 24). -/
def State.xNatIn (s t : State) (i : Reg) : Nat := ((t.regAt s.bankBActive i).low s.W).toNat

/-- The same, as a signed number. -/
def State.xIntIn (s t : State) (i : Reg) : Int := ((t.regAt s.bankBActive i).low s.W).toInt

/-- `t` is the state in which a system or control register holds `v` after a write at the width of `s`: all of it when `W` is
64; when `W` is 32 bits 31:0, and bits 63:32 as before (10 R26). -/
def Wrote (s : State) (r : Special) (v : Nat) (t : State) : Prop :=
  (t.special r).toNat =
    if s.wide then v % 2 ^ 64 else (s.special r).toNat / 2 ^ 32 * 2 ^ 32 + v % 2 ^ 32

/-! The invariant. -/

/-- The addresses of the executed-code tags rise (10 R71). -/
abbrev Tags.wf (tags : List XTag) : Prop := tags.Pairwise fun t u => t.addr < u.addr

/-- The program counter is a normalised address under the `SR` in force (20 R91). -/
def State.holdsPc (s : State) : Prop := s.ea s.pc = s.pc

/-- What a pending delay slot says of the program counter: the slot follows its branch, after 2 bytes or, for a fat branch,
after 6 (10 R70, 49 R475). -/
def State.holdsSlot (s : State) : Prop :=
  ∀ sl, s.slot = some sl → s.pc = s.ea (sl.branch + 2) ∨ s.pc = s.ea (sl.branch + 6)

/-- What every step keeps: the memory and the tags are in their canonical forms, the program counter is normalised, a delay slot
follows its branch, and every tag stands at an even address, the only ones that are fetched. -/
structure State.Inv (s : State) : Prop where
  /-- The memory is in its canonical form (20 R90). -/
  mem : Memory.wf s.mem
  /-- The tags are in their canonical form (10 R71). -/
  tags : Tags.wf s.xtag
  /-- Instructions are fetched at even addresses only (20 R103). -/
  evenTags : ∀ t ∈ s.xtag, t.addr % 2 = 0
  /-- The program counter is a normalised address (20 R91). -/
  pc : s.holdsPc
  /-- A delay slot follows its branch (10 R70). -/
  slot : s.holdsSlot

/-! What an access needs. -/

/-- An access of `count` bytes at a normalised address that the machine can make for a read: aligned to `align`, canonical, and
memory there (20 R92, R101 to R105). -/
structure State.Reads (s : State) (e : BitVec 64) (count align : Nat) : Prop where
  /-- The address is a multiple of the alignment (20 R101). -/
  aligned : e.toNat % align = 0
  /-- Bits 63:48 equal bit 47 (20 R92). -/
  canonical : canonical e = true
  /-- Memory stands at every byte (20 R93, R105). -/
  present : ∀ k < count, areaAt s.params.platform (e.toNat + k) = .ram ∨ areaAt s.params.platform (e.toNat + k) = .rom

/-- The same for a write, which read-only memory does not take. -/
structure State.Writes (s : State) (e : BitVec 64) (count align : Nat) : Prop where
  /-- The address is a multiple of the alignment (20 R101). -/
  aligned : e.toNat % align = 0
  /-- Bits 63:48 equal bit 47 (20 R92). -/
  canonical : canonical e = true
  /-- Memory that takes a store stands at every byte (20 R93, R105). -/
  present : ∀ k < count, areaAt s.params.platform (e.toNat + k) = .ram

/-- An access that raises `AddressError`: misaligned, not canonical, or with nothing at one of its bytes (60 R504). The cause
carries the normalised address `e` (log 38). -/
def State.Misses (s : State) (e : BitVec 64) (count align : Nat) : Prop :=
  e.toNat % align ≠ 0 ∨ canonical e = false ∨ ∃ k < count, areaAt s.params.platform (e.toNat + k) = .absent

/-- An access that no check turns away and that touches a device whose registers the spec does not describe (20 R105). -/
structure State.OnDevice (s : State) (e : BitVec 64) (count align : Nat) : Prop where
  /-- The address is a multiple of the alignment (20 R101). -/
  aligned : e.toNat % align = 0
  /-- Bits 63:48 equal bit 47 (20 R92). -/
  canonical : canonical e = true
  /-- Something stands at every byte (20 R93). -/
  present : ∀ k < count, areaAt s.params.platform (e.toNat + k) ≠ .absent
  /-- A device stands at one of the bytes. -/
  device : ∃ k < count, areaAt s.params.platform (e.toNat + k) = .device

/-- An access that no check turns away, with memory at every byte, of which one is read-only (log 15). -/
structure State.OnRom (s : State) (e : BitVec 64) (count align : Nat) : Prop where
  /-- The address is a multiple of the alignment (20 R101). -/
  aligned : e.toNat % align = 0
  /-- Bits 63:48 equal bit 47 (20 R92). -/
  canonical : canonical e = true
  /-- Memory stands at every byte (20 R93). -/
  present : ∀ k < count, areaAt s.params.platform (e.toNat + k) = .ram ∨ areaAt s.params.platform (e.toNat + k) = .rom
  /-- Read-only memory stands at one of the bytes. -/
  rom : ∃ k < count, areaAt s.params.platform (e.toNat + k) = .rom

/-- An access of `count` bytes aligned to its size that touches a device, in a list of accesses at addresses before normalisation:
the instruction of each is refused, since the spec does not describe the device (20 R105). -/
def DevicesRefuse (s : State) (accesses : List (Instr × BitVec s.W × Nat)) : Prop :=
  ∀ p ∈ accesses, s.OnDevice (s.ea (p.2.1.setWidth 64)) p.2.2 p.2.2 → exec p.1 s = .refused .deviceAccess

/-- The same for stores, which read-only memory refuses too (log 15). -/
def StoresRefuse (s : State) (accesses : List (Instr × BitVec s.W × Nat)) : Prop :=
  DevicesRefuse s accesses ∧ ∀ p ∈ accesses, s.OnRom (s.ea (p.2.1.setWidth 64)) p.2.2 p.2.2 → exec p.1 s = .refused .romWrite

/-! Boundaries. -/

/-- At this state the step fetches an instruction: no MMU, the run not ended, no interrupt accepted, awake, in a mode that may
execute (60 R508, 70 R578). -/
structure State.Starts (s : State) : Prop where
  /-- The machine has no MMU (20 R117). -/
  noMmu : s.params.hasMMU = false
  /-- The state is not final (70 R578). -/
  notFinal : s.final = false
  /-- No interrupt is accepted (60 R506). -/
  noInterrupt : s.accepted = none
  /-- The core is awake (10 R72). -/
  awake : s.asleep = false
  /-- The mode may execute (10 R62). -/
  mode : s.modeAllowed = true

/-- An instruction word at a normalised address that the fetch takes: readable, not executed before under other flags, in no block
that was written since (60 R516, 20 R110, R111). -/
structure State.Fetches (s : State) (a : BitVec 64) : Prop where
  /-- The word can be read. -/
  reads : s.Reads a 2 2
  /-- Its tag has the flags in force. -/
  flags : ∀ u, Tags.find s.xtag a.toNat = some u → u.flags = s.modeFlags
  /-- No tag of its block is dirty. -/
  clean : ∀ u ∈ s.xtag, u.dirty = true → sameBlock s.params.icacheShift u.addr a.toNat = false

/-- The privileged set holds every instruction that 60 R531 lists. -/
def State.Guarded (s : State) : Prop :=
  ∀ i, isIn Config.conventionalPrivileged i = true → isIn s.params.privileged i = true

/-! What an instruction may touch. -/

/-- What an instruction may change, beside the program counter and the delay slot. -/
structure Footprint where
  /-- General registers, by number through the bank that is active before the instruction. -/
  regs : List Reg := []
  /-- Registers of the bank that is inactive before the instruction. -/
  others : List BankReg := []
  /-- System and control registers other than `SR`. -/
  specials : List Special := []
  /-- Bits of `SR`. -/
  srBits : List Nat := []
  /-- FPU registers. -/
  fregs : List FReg := []
  /-- Stored bytes: normalised addresses and numbers of bytes, in the order of the stores. -/
  stored : List (BitVec 64 × Nat) := []

/-- An address outside every stored range. -/
def Outside (stored : List (BitVec 64 × Nat)) (a : Nat) : Prop :=
  ∀ p ∈ stored, ¬ (p.1.toNat ≤ a ∧ a < p.1.toNat + p.2)

/-- `t` differs from `s` in nothing but a footprint, the program counter, the delay slot and the count of drawn values. A store
also marks the tags of its block (20 R111). -/
structure Frame (f : Footprint) (s t : State) : Prop where
  /-- Every general register outside the footprint is unchanged, each as its number names it before. -/
  regs : ∀ i, i ∉ f.regs → t.regAt s.bankBActive i = s.reg i
  /-- Every register of the bank that is inactive before is unchanged outside the footprint. -/
  others : ∀ i, i ∉ f.others → t.otherAt s.bankBActive i = s.otherReg i
  /-- Every system and control register outside the footprint is unchanged. -/
  specials : ∀ r, r ≠ .sr → r ∉ f.specials → t.special r = s.special r
  /-- Outside the footprint, `VBR` counts as written exactly if it did before (60 R513). -/
  base : Special.vbr ∉ f.specials → t.vbrWritten = s.vbrWritten
  /-- Every bit of `SR` outside the footprint is unchanged. -/
  status : ∀ k, k ∉ f.srBits → t.sr.getLsbD k = s.sr.getLsbD k
  /-- Every FPU register outside the footprint is unchanged. -/
  fregs : ∀ i, i ∉ f.fregs → t.freg i = s.freg i
  /-- Every byte of memory outside the stored ranges is unchanged. -/
  memory : ∀ a, Outside f.stored a → Memory.read t.mem a = Memory.read s.mem a
  /-- The tags change only by the stores. -/
  tags : t.xtag = f.stored.foldl (fun tags p => Tags.mark s.params.icacheShift p.1.toNat p.2 tags) s.xtag
  /-- The core stays awake or asleep. -/
  asleep : t.asleep = s.asleep
  /-- The interrupt input is unchanged. -/
  irqInput : t.irqInput = s.irqInput
  /-- The parameters are unchanged. -/
  params : t.params = s.params

/-- The program counter after an instruction of `len` bytes that is no taken branch: the pending target of a delay slot if one
was pending, else the next instruction; no slot is pending after it (10 R64, R70; the normalisation of the target is log 37). -/
structure Advances (len : BitVec 64) (s t : State) : Prop where
  /-- After a delay slot execution goes on at the target. -/
  target : ∀ sl, s.slot = some sl → t.pc = s.ea sl.target
  /-- Elsewhere it goes on after the instruction. -/
  next : s.slot = none → t.pc = s.ea (s.pc + len)
  /-- No slot is pending. -/
  slot : t.slot = none

/-- An instruction of `len` bytes completes: it answers a next state within its footprint, past the instruction, of which `Q`
holds. -/
def CompletesAfter (len : BitVec 64) (i : Instr) (s : State) (f : Footprint) (Q : State → Prop) : Prop :=
  ∃ t, exec i s = .next t ∧ Frame f s t ∧ Advances len s t ∧ Q t

/-- An instruction of one word completes. -/
abbrev Completes (i : Instr) (s : State) (f : Footprint) (Q : State → Prop) : Prop := CompletesAfter 2 i s f Q

/-- An instruction completes, writes one general register and leaves the number `v` in it; nothing else changes. -/
def Yields (i : Instr) (s : State) (n : Reg) (v : Nat) : Prop := Completes i s { regs := [n] } fun t => t.xNat n = v

/-- The same, with the signed number `v`. -/
def YieldsInt (i : Instr) (s : State) (n : Reg) (v : Int) : Prop := Completes i s { regs := [n] } fun t => t.xInt n = v

/-- The same, with bit `k` of the register at `f k` for every `k` below `W`. -/
def YieldsBits (i : Instr) (s : State) (n : Reg) (f : Nat → Bool) : Prop :=
  Completes i s { regs := [n] } fun t => ∀ k < s.W, t.xBit n k = f k

/-- An instruction completes, leaves `v` in one general register and sets `T` exactly when `b`; nothing else changes. -/
def YieldsWithT (i : Instr) (s : State) (n : Reg) (v : Nat) (b : Prop) : Prop :=
  Completes i s { regs := [n], srBits := [0] } fun t => s.xNatIn t n = v ∧ (t.t = true ↔ b)

/-- An instruction completes and sets `T` exactly when `b`; nothing else changes. -/
def SetsT (i : Instr) (s : State) (b : Prop) : Prop := Completes i s { srBits := [0] } fun t => t.t = true ↔ b

/-- An instruction completes and writes `v` to one system or control register other than `SR`; nothing else changes, but that after
a write of `VBR` it counts as written (60 R513, log 4). -/
def Puts (i : Instr) (s : State) (r : Special) (v : Nat) : Prop :=
  Completes i s { specials := [r] } fun t => Wrote s r v t ∧ (r = .vbr → t.vbrWritten = true)

/-- An instruction of one word takes a delayed branch: it answers a next state within its footprint, in which the instruction
`len` bytes on is the delay slot and the target is pending (10 R70, 70 R570), with the branch's address beside it (log 12), and of
which `Q` holds. -/
def Branches (i : Instr) (s : State) (f : Footprint) (target : BitVec 64) (len : BitVec 64) (Q : State → Prop) : Prop :=
  ∃ t, exec i s = .next t ∧ Frame f s t ∧ t.pc = s.ea (s.pc + len) ∧ t.slot = some ⟨target, s.pc⟩ ∧ Q t

/-- An instruction abandons its own effect and enters a trap in the state it found (60 R510). -/
def Traps (i : Instr) (s : State) (c : Cause) : Prop := exec i s = trapEntry c s

/-- A load form: where the access can be made it completes, writes one register and reads the sign-extended value at the address;
where the access misses it raises `AddressError` and nothing is written (20 R119, 60 R504). -/
def Loads (i : Instr) (s : State) (a : BitVec 64) (count : Nat) (n : Reg) : Prop :=
  (s.Reads (s.ea a) count count →
    Completes i s { regs := [n] } fun t => t.xInt n = (s.valueAt s.localOrder (s.ea a) count).toInt) ∧
  (s.Misses (s.ea a) count count → Traps i s (.addressError (s.ea a) .read))

/-- A post-increment load: as `Loads`, and the address register moves past the operand unless it is the destination
(45 R370). -/
def Pops (i : Instr) (s : State) (m n : Reg) (count : Nat) : Prop :=
  (s.Reads (s.ea ((s.x m).setWidth 64)) count count →
    Completes i s { regs := [n, m] } fun t =>
      t.xInt n = (s.valueAt s.localOrder (s.ea ((s.x m).setWidth 64)) count).toInt ∧
      (m ≠ n → t.xNat m = (s.xNat m + count) % 2 ^ s.W)) ∧
  (s.Misses (s.ea ((s.x m).setWidth 64)) count count →
    Traps i s (.addressError (s.ea ((s.x m).setWidth 64)) .read))

/-- A store form: where the access can be made it completes and the low bytes of `v` stand at the address; where the access
misses it raises `AddressError` and nothing is written (20 R96, 60 R504). -/
def Stores (i : Instr) (s : State) (a : BitVec 64) (count v : Nat) : Prop :=
  (s.Writes (s.ea a) count count →
    Completes i s { stored := [(s.ea a, count)] } fun t =>
      (t.valueAt s.localOrder (s.ea a) count).toNat = v % 2 ^ (8 * count)) ∧
  (s.Misses (s.ea a) count count → Traps i s (.addressError (s.ea a) .write))

/-- The address below a register at which a pre-decrement store of `count` bytes stores. -/
def State.below (s : State) (n : Reg) (count : Nat) : BitVec 64 := (s.x n - BitVec.ofNat s.W count).setWidth 64

/-- A pre-decrement store: as `Stores` below the register, which then points at the stored value; a store that misses leaves
the register (41 R255). -/
def Pushes (i : Instr) (s : State) (n : Reg) (count v : Nat) : Prop :=
  (s.Writes (s.ea (s.below n count)) count count →
    Completes i s { regs := [n], stored := [(s.ea (s.below n count), count)] } fun t =>
      (t.valueAt s.localOrder (s.ea (s.below n count)) count).toNat = v % 2 ^ (8 * count) ∧
      (t.xNat n : Int) = ((s.xNat n : Int) - count) % 2 ^ s.W) ∧
  (s.Misses (s.ea (s.below n count)) count count →
    Traps i s (.addressError (s.ea (s.below n count)) .write))

/-- A post-increment load of a system or control register other than `SR`, at the width `szLQ` (43 R318); after one of `VBR` it
counts as written (60 R513, log 4). -/
def PopsTo (i : Instr) (s : State) (m : Reg) (r : Special) : Prop :=
  (s.Reads (s.ea ((s.x m).setWidth 64)) s.szLQ s.szLQ →
    Completes i s { regs := [m], specials := [r] } fun t =>
      Wrote s r (s.valueAt s.localOrder (s.ea ((s.x m).setWidth 64)) s.szLQ).toNat t ∧
      t.xNat m = (s.xNat m + s.szLQ) % 2 ^ s.W ∧ (r = .vbr → t.vbrWritten = true)) ∧
  (s.Misses (s.ea ((s.x m).setWidth 64)) s.szLQ s.szLQ →
    Traps i s (.addressError (s.ea ((s.x m).setWidth 64)) .read))

/-- An instruction whose own effect is to enter a trap: trap entry in the state it found; where `VBR` was written and the vector can
be read it answers the next state, in supervisor mode, with the status and the return address saved, at the handler (60 R510). -/
def Enters (i : Instr) (s : State) (c : Cause) : Prop :=
  Traps i s c ∧
  (s.vbrWritten = true → s.Reads (s.ea (s.vectorAddress c)) s.vecBytes s.vecBytes →
    ∃ t, exec i s = .next t ∧ t.md = true ∧ t.slot = none ∧ Wrote s .ssr s.sr.toNat t ∧
      Wrote s .spc (s.returnAddress c).toNat t ∧
      t.pc = s.ea ((s.valueAt s.machineOrder (s.ea (s.vectorAddress c)) s.vecBytes).signExtend 64))

/-- `t` differs from `s` in nothing but `SR`, the program counter, the delay slot, the count of drawn values and, where `SR.AQ`
changed, one half of each FPU register: the upper halves when it became 1, the lower halves when it became 0 (10 R58, log 16). -/
structure StatusFrame (s t : State) : Prop where
  /-- Bank A is unchanged. -/
  bankA : t.bankA = s.bankA
  /-- Bank B is unchanged. -/
  bankB : t.bankB = s.bankB
  /-- `R8..R15` are unchanged. -/
  rh : t.rh = s.rh
  /-- Every system and control register but `SR` is unchanged. -/
  specials : ∀ r, r ≠ .sr → t.special r = s.special r
  /-- `VBR` counts as written exactly if it did before (60 R513). -/
  base : t.vbrWritten = s.vbrWritten
  /-- The FPU registers are unchanged unless `SR.AQ` changed. -/
  fpu : t.aq = s.aq → t.fr = s.fr
  /-- When `SR.AQ` became 1 the lower halves are unchanged. -/
  fpuLow : s.aq = false → ∀ i, (t.freg i).lo = (s.freg i).lo
  /-- When `SR.AQ` became 0 the upper halves are unchanged. -/
  fpuHigh : s.aq = true → ∀ i, (t.freg i).hi = (s.freg i).hi
  /-- Memory is unchanged. -/
  mem : t.mem = s.mem
  /-- The tags are unchanged. -/
  tags : t.xtag = s.xtag
  /-- The core stays awake or asleep. -/
  asleep : t.asleep = s.asleep
  /-- The interrupt input is unchanged. -/
  irqInput : t.irqInput = s.irqInput
  /-- The parameters are unchanged. -/
  params : t.params = s.params

/-- The label of a branch whose displacement counts instruction words from 4 bytes after the branch (70 R573). -/
def State.label (s : State) {w : Nat} (d : BitVec w) : BitVec 64 := s.ea (BitVec.ofInt 64 (s.pc.toInt + 4 + 2 * d.toInt))

/-- The address of a PC-relative operand: 4 bytes after the instruction, rounded down to a multiple of 4, and 4 bytes further for
each unit of the displacement (20 R102). -/
def State.literal (s : State) (d : BitVec 8) : BitVec 64 :=
  s.ea (BitVec.ofNat 64 ((s.ea (s.pc + 4)).toNat / 4 * 4 + 4 * d.toNat))

/-- What an FPU instruction of a calculation mode needs of the state: the FPU enabled, `FPSCR.FR` = 0, and the mode in force
(48 R430). -/
structure State.FpuReady (s : State) (md : FpMode) : Prop where
  /-- The FPU is enabled (60 R503). -/
  enabled : s.fd = false
  /-- `FPSCR.FR` is 0 (48 R430). -/
  bank : s.fpBank = false
  /-- The calculation mode is in force (48 R430). -/
  mode : s.fpMode? = some md

/-- An FPU register field that a calculation mode takes: any, but an even one in split-double mode (48 R430). -/
def FpMode.takes (md : FpMode) (i : FReg) : Prop := md = .split → i.getLsbD 0 = false

/-- The registers that hold the operand of an FPU register field in a calculation mode (48 R430). -/
def State.fpRegs (s : State) (md : FpMode) (i : FReg) : List FReg :=
  match md with
  | .single => [i]
  | .split => [s.highOf i, s.lowOf i]
  | .double => [i]

/-- What a register image loaded by `FMOV.S` from a normalised address leaves in the FPU registers of a field, by `SR.AQ` and
`FPSCR.SZ` (48 R458): one DWord into bits 31:0; two DWords into a pair, the register of the lower address first; one QWord. -/
def State.FpLoaded (s : State) (e : BitVec 64) (n : FReg) (t : State) : Prop :=
  (s.fpSize = false → (t.freg n).lo.toNat = (s.valueAt s.localOrder e 4).toNat ∧ (t.freg n).hi = (s.freg n).hi) ∧
  (s.aq = false → s.fpSize = true →
    (t.freg (pairRegisters s.params.pairLow n).1).lo.toNat = (s.valueAt s.localOrder e 4).toNat ∧
    (t.freg (pairRegisters s.params.pairLow n).2).lo.toNat = (s.valueAt s.localOrder (e + 4) 4).toNat ∧
    ∀ i, (t.freg i).hi = (s.freg i).hi) ∧
  (s.aq = true → (t.f64 n).toNat = (s.valueAt s.localOrder e 8).toNat)

/-- What `FMOV.S` leaves in memory at a normalised address, by `SR.AQ` and `FPSCR.SZ` (48 R458). -/
def State.FpStored (s : State) (e : BitVec 64) (m : FReg) (t : State) : Prop :=
  (s.fpSize = false → (t.valueAt s.localOrder e 4).toNat = (s.freg m).lo.toNat) ∧
  (s.aq = false → s.fpSize = true →
    (t.valueAt s.localOrder e 4).toNat = (s.freg (pairRegisters s.params.pairLow m).1).lo.toNat ∧
    (t.valueAt s.localOrder (e + 4) 4).toNat = (s.freg (pairRegisters s.params.pairLow m).2).lo.toNat) ∧
  (s.aq = true → (t.valueAt s.localOrder e 8).toNat = (s.f64 m).toNat)

/-- The bytes that `FMOV.S` moves: 8 with `FPSCR.SZ` set, else 4 (48 R458). -/
def State.fpBytes (s : State) : Nat := if s.fpSize then 8 else 4

/-- What `FMOV.S` needs of the state and its FPU register field: the FPU enabled, `FPSCR.FR` = 0, with `SR.AQ` = 1 a transfer of
8 bytes, and with `SR.AQ` = 0 an even field for a pair (48 R458). -/
structure State.FpMoves (s : State) (i : FReg) : Prop where
  /-- The FPU is enabled (60 R503). -/
  enabled : s.fd = false
  /-- `FPSCR.FR` is 0 (48 R430). -/
  bank : s.fpBank = false
  /-- With `SR.AQ` = 1 only transfers of 8 bytes have a meaning. -/
  size : s.aq = true → s.fpSize = true
  /-- A pair begins at an even register. -/
  pair : s.aq = false → s.fpSize = true → i.getLsbD 0 = false

/-- The FPU registers that `FMOV.S` moves for a field (48 R458). -/
def State.fpMoved (s : State) (i : FReg) : List FReg :=
  if s.aq = false ∧ s.fpSize = true then [(pairRegisters s.params.pairLow i).1, (pairRegisters s.params.pairLow i).2] else [i]

/-- The byte ranges that `FMOV.S` stores at a normalised address: a pair is two stores of 4 bytes (48 R458). -/
def State.fpRanges (s : State) (e : BitVec 64) : List (BitVec 64 × Nat) :=
  if s.fpSize then (if s.aq then [(e, 8)] else [(e, 4), (e + 4, 4)]) else [(e, 4)]

end Sys2Proof.Machine
end

