-- ==== Sys2Proof/Certificates/Slice0/Obligations.lean ====
section
/-!
DEFINITION. The statements about the machine, for the provers. They speak the words of Safety.lean. A statement that rests on a
choice of the model, or on a clause that the spec marks as its own inference, names the log entry.
-/

open Sys2Proof Sys2Proof.Machine

/-! Encoding. -/

/-- The words of a well-formed instruction, at a place where it has its encoding, decode to it and to nothing more (30 R140 to
R155, 49 R471 to R476). It rests on decisions and inferences of the spec (92 D16, D26). -/
def Obligations.DecodeOfEncode : Prop :=
  ∀ (i : Instr) (odd : Bool), i.wellFormed = true → i.standsAt odd = true → decode odd (encode i) = .ok (i, [])

/-- Every word is the word of one well-formed instruction, or of a row that names none: no bit of a word is dropped (30 R148 to
R155). It rests on inferences of the spec (30 R152, R155). -/
def Obligations.EveryWordDecodes : Prop :=
  ∀ w : InstrWord, (decodeWord w).wellFormed = true ∧ encodeWord (decodeWord w) = w

/-- Words written out from the opcode table decode to the instructions of their rows: one of each group 0 to F, a fat load and a
word without a row (30 R148 to R152, 49 R472). It rests on decisions and inferences of the spec (92 D26). -/
def Obligations.EncodingWords : Prop :=
  decodeWord 0x0127 = .mulLq 2 1 ∧ decodeWord 0x1235 = .movLStoreDisp 3 2 5 ∧ decodeWord 0x2129 = .and 2 1 ∧
  decodeWord 0x3218 = .sub 1 2 ∧ decodeWord 0x4510 = .dt 5 ∧ decodeWord 0x51A3 = .movLLoadDisp 10 3 1 ∧
  decodeWord 0x6216 = .movLPop 1 2 ∧ decodeWord 0x73FF = .addImm 0xFF 3 ∧ decodeWord 0x8BFE = .bf 0xFE ∧
  decodeWord 0x9123 = .movWqLoadDisp 2 3 1 ∧
  decodeWord 0xAFFD = .bra 0xFFD ∧ decodeWord 0xB123 = .bsr 0x123 ∧ decodeWord 0xC321 = .trapa 0x21 ∧
  decodeWord 0xD102 = .movLqLoadPc 2 1 ∧ decodeWord 0xE17F = .movImm 0x7F 1 ∧ decodeWord 0xF120 = .fadd 2 1 ∧
  decodeWord 0x0108 = .unlisted 0x0108 ∧
  decode false [0x008B, 0xE112, 0x3456] = .ok (.ldfatMov24 0x123456 1, [])

/-! The machine as a whole. -/

/-- Every step keeps the invariant, from every state that meets it: the memory and the tags stay in their canonical forms, tags
stand at even addresses, the program counter stays a normalised address, a delay slot follows its branch. The canonical forms are
the model's (log 5). The branch's address in the latch is log 12. -/
def Obligations.StepKeepsInvariant : Prop := ∀ s t : State, s.Inv → step s = .next t → t.Inv

/-- The reset state meets the invariant, and it is what start-up leaves on the empty memory, whose start-up block reads as the
image of log 2. The registers that start-up leaves open are log 3. -/
def Obligations.ResetIsStartUp : Prop :=
  State.reset.Inv ∧ startUp [] Config.resetParams [] = .next State.reset

/-- What start-up leaves: the program counter, the status register and the stack pointer from the three words of the block in the
byte order of the magic, nothing pending, nothing tagged, awake; and no other memory, parameter or input (70 R560 to R563). It
rests on decisions and inferences of the spec (92 D19). -/
def Obligations.StartUp : Prop :=
  ∀ (m : List Host.Cell) (p : Params) (irq : List (Option IrqRequest)) (s : State), startUp m p irq = .next s →
    ∃ o : ByteOrder,
      o.value (Memory.readBytes m (Config.startBlock + 12) 4) = 0x424A3041 ∧
      s.pc.toInt = (BitVec.ofNat 32 (o.value (Memory.readBytes m Config.startBlock 4))).toInt ∧
      (∀ k < 32, k ≠ 23 → s.sr.getLsbD k = (o.value (Memory.readBytes m (Config.startBlock + 8) 4)).testBit k) ∧
      s.me = (o == .little) ∧
      (s.reg 15).lo.toNat = o.value (Memory.readBytes m (Config.startBlock + 4) 4) ∧
      (s.wide = true → s.xInt 15 = (s.reg 15).lo.toInt) ∧
      s.slot = none ∧ s.xtag = [] ∧ s.asleep = false ∧ s.pc.getLsbD 0 = false ∧
      s.mem = m ∧ s.params = p ∧ s.irqInput = irq

/-- A step runs the decoded instruction. When the step fetches one, and the fetched words decode to an instruction that the mode
may run, the step is `exec` of it in the state after the fetch; an instruction that the parameter makes privileged raises
`IllegalInstruction` in user mode, whatever it is. When the word at the program counter can be fetched and opens no fat load, what
is fetched is that word, and the fetch changes nothing but the tag of its address (60 R508, R516, R531, 20 R95, R110, R111). It
rests on decisions and inferences of the spec (60 R516, 92 D6). The set as a parameter is log 24, the end of a run log 34. When an
address is tagged is log 26. -/
def Obligations.StepRunsInstruction : Prop :=
  (∀ (s t : State) (ws rest : List InstrWord) (i : Instr), s.Starts →
    s.passBoundary.fetchWords = .ok (ws, t) → decode s.wordParity ws = .ok (i, rest) →
    (s.mayRun i = true → step s = exec i t) ∧
    (s.md = false → isIn s.params.privileged i = true → step s = trapEntry .illegalInstruction t)) ∧
  (∀ (s : State) (w : InstrWord), s.Fetches s.pc → s.valueAt s.machineOrder s.pc 2 = w → w ≠ 0x008B → w ≠ 0x009B →
    s.fetchWords = .ok ([w], { s with xtag := Tags.record s.xtag ⟨s.pc.toNat, s.modeFlags, false⟩ }) ∧
    decode s.wordParity [w] = .ok (decodeWord w, []))

/-- The fetch of a fat load whose words can be fetched: a prefix word with an operation word of a layout brings in its extension
words, so that a `LDFAT.L` has three words and a `LDFAT.Q` four at an even word index and five at an odd one (49 R470, R471). The
fetch changes nothing but the tags. It rests on decisions and inferences of the spec (92 D26). When an address is tagged is log
26. -/
def Obligations.FatLoadFetch : Prop :=
  ∀ (s : State) (w0 w1 : InstrWord) (count : Nat), s.params.hasFatLoad = true → s.holdsPc →
    s.valueAt s.machineOrder s.pc 2 = w0 → s.valueAt s.machineOrder (s.pcPlus 2) 2 = w1 →
    (∀ k < count, s.Fetches (s.pcPlus (BitVec.ofNat 64 (2 * k)))) →
    ((w0 = 0x008B ∧ (nibble3 w1 = 0xE ∨ nibble3 w1 = 0xA ∨ nibble3 w1 = 0xB) ∧ count = 3) ∨
      (w0 = 0x009B ∧ nibble3 w1 = 0xE ∧ count = if s.wordParity then 5 else 4)) →
    ∃ t, s.fetchWords = .ok ((List.range count).map fun k =>
        s.valueAt s.machineOrder (s.pcPlus (BitVec.ofNat 64 (2 * k))) 2, t) ∧
      t = { s with xtag := t.xtag }

/-- Executing an address again under other mode flags, or in a block that was written since, without an invalidation: the model
stops, and no later state is defined (20 R110, R111, 60 R509). It rests on decisions and inferences of the spec (92 D21). That a
tag counts by its own address, and a dirty mark by its block, is log 26. -/
def Obligations.FetchUndefined : Prop :=
  ∀ s : State, s.Starts → s.Reads s.pc 2 2 →
    (∀ u, Tags.find s.xtag s.pc.toNat = some u → u.flags ≠ s.modeFlags → step s = .fault .undefinedFlags) ∧
    ((∀ u, Tags.find s.xtag s.pc.toNat = some u → u.flags = s.modeFlags) →
      ∀ u ∈ s.xtag, u.dirty = true → sameBlock s.params.icacheShift u.addr s.pc.toNat = true →
        step s = .fault .undefinedModified)

/-- User mode is confined: with a privileged set that holds that of 60 R531, a step that starts in user mode either enters
supervisor mode, through a trap, or stays in user mode and leaves `VBR`, `SSR`, `SPC`, `DBR`, the bank that was inactive, every bit
of `SR` but `T`, `S`, `Q`, `M` and `DQ`, and stays awake; and then, where the bank function looks at none of those five bits, the
mapping of the banks stays. It rests on decisions and inferences of the spec (92 D6). The set and the bank function are parameters
(log 24). -/
def Obligations.UserModeIsConfined : Prop :=
  ∀ s t : State, s.md = false → s.Guarded → s.asleep = false → step s = .next t →
    (t.md = true ∧ t.asleep = false ∧ t.slot = none ∧ t.vbr = s.vbr ∧ t.dbr = s.dbr ∧
      ∀ k, k ≠ 28 → k ≠ 30 → t.sr.getLsbD k = s.sr.getLsbD k) ∨
    (t.md = false ∧ t.asleep = false ∧ t.vbr = s.vbr ∧ t.ssr = s.ssr ∧ t.spc = s.spc ∧ t.dbr = s.dbr ∧
      (∀ i, t.otherAt s.bankBActive i = s.otherReg i) ∧
      (∀ k, k ∉ [0, 1, 8, 9, 20] → t.sr.getLsbD k = s.sr.getLsbD k) ∧
      ((∀ v w : BitVec 64, (∀ k, k ∉ [0, 1, 8, 9, 20] → v.getLsbD k = w.getLsbD k) →
        selectsBankB s.params.bankSel v = selectsBankB s.params.bankSel w) → t.bankBActive = s.bankBActive))

/-- Return undoes trap entry: if a trap is entered outside a delay slot at a normalised program counter, and a handler, at the same
width, in supervisor mode, with `SSR`, `SPC` and the upper half of `SR` as entry left them, executes `RTE`, then `SR` is what it
was, the banks are swapped back, and the pending target is the instruction that was interrupted, or for a `TRAPA` the one after it
(60 R510, R512, R520). It rests on decisions and inferences of the spec (92 D11, D14). The widths are log 20. The branch's address
in the latch is log 12. -/
def Obligations.TrapThenReturn : Prop :=
  ∀ (s t u : State) (c : Cause), trapEntry c s = .next t → s.slot = none → s.holdsPc →
    u.ssr = t.ssr → u.spc = t.spc → u.md = true → u.wide = s.wide → u.slot = none →
    u.sr.extractLsb' 32 32 = t.sr.extractLsb' 32 32 → u.params = s.params →
    ∃ v, exec .rte u = .next v ∧ v.sr = s.sr ∧ v.bankBActive = s.bankBActive ∧
      ((∀ imm, c ≠ .trap imm) → v.slot = some ⟨s.pc, u.pc⟩) ∧
      (∀ imm, c = .trap imm → v.slot = some ⟨s.ea (s.pc + 2), u.pc⟩)

/-- What the boundary before an instruction does, on a machine without an MMU. A request is accepted exactly when no delay slot is
pending, `SR.BL` is 0 and its level is above `SR.IM`; then the step is trap entry. A request that is not accepted, and no request,
leave a sleeping core as it is, and let an awake core run one instruction where the mode may execute and the run has not ended; at
`EndPC` the state stays as it is (60 R506, R508, R539, 70 R578). The conditions of acceptance are decision D13, that a masked
request leaves a sleeping core asleep is decision D33, on which 60 R539 lets no claim about the hardware rely, and `EndPC` is
decision D34; the input as a list is log 13, the final state log 34. -/
def Obligations.InterruptAcceptance : Prop :=
  (∀ (s : State) (r : IrqRequest) (rest : List (Option IrqRequest)), s.params.hasMMU = false → s.irqInput = some r :: rest →
    ((s.slot = none ∧ s.bl = false ∧ s.im.toNat < r.level.toNat) →
      step s = trapEntry (.interrupt r.level) { s with irqInput := rest }) ∧
    (¬ (s.slot = none ∧ s.bl = false ∧ s.im.toNat < r.level.toNat) →
      (s.asleep = true → step s = .next { s with irqInput := rest }) ∧
      (s.asleep = false → s.modeAllowed = true → ¬ (s.slot = none ∧ s.params.endPC = some s.pc) →
        step s = ({ s with irqInput := rest } : State).runInstr) ∧
      (s.asleep = false → s.modeAllowed = true → s.slot = none → s.params.endPC = some s.pc → step s = .next s))) ∧
  (∀ s : State, s.params.hasMMU = false → (s.irqInput = [] ∨ s.irqInput.head? = some none) →
    (s.asleep = true → step s = .next { s with irqInput := s.irqInput.tail }) ∧
    (s.asleep = false → s.modeAllowed = true → ¬ (s.slot = none ∧ s.params.endPC = some s.pc) →
      step s = ({ s with irqInput := s.irqInput.tail } : State).runInstr) ∧
    (s.asleep = false → s.modeAllowed = true → s.slot = none → s.params.endPC = some s.pc → step s = .next s))

/-- A step never changes the parameters, takes exactly one entry of the interrupt input unless the run has ended, when it changes
nothing, and never finds the end of its words inside an instruction. The parameters as state are log 6, the input as a list is log
13, the end of a run log 34. -/
def Obligations.StepKeepsParameters : Prop :=
  (∀ s t : State, step s = .next t → t.params = s.params ∧ (s.final = false → t.irqInput = s.irqInput.tail) ∧
    (s.final = true → t = s)) ∧
  ∀ s : State, step s ≠ .refused .truncatedFetch

/-! Memory and addresses. -/

/-- Two memories in canonical form that read the same at every address are the same list. The form is the model's (log 5). -/
def Obligations.MemoryExtensional : Prop :=
  ∀ m n : List Host.Cell, Memory.wf m → Memory.wf n → (∀ a, Memory.read m a = Memory.read n a) → m = n

/-- Where the bytes of a stored value lie: of `count` bytes at `a`, byte `a + k` holds bits `8k + 7 : 8k` in little-endian order
and bits `8 (count - 1 - k) + 7 : 8 (count - 1 - k)` in big-endian order; every other byte is unchanged, and exactly the tags in a
block that a stored byte lies in become dirty (20 R97, R111). It rests on decisions and inferences of the spec (92 D21). -/
def Obligations.StoredBytes : Prop :=
  ∀ (s : State) (o : ByteOrder) (a : BitVec 64) (count v : Nat), Memory.wf s.mem →
    (∀ k < count, (Memory.read (s.putBytes o a count v).mem (a.toNat + k)).toNat =
      match o with
      | .little => v / 2 ^ (8 * k) % 256
      | .big => v / 2 ^ (8 * (count - 1 - k)) % 256) ∧
    (∀ x, Outside [(a, count)] x → Memory.read (s.putBytes o a count v).mem x = Memory.read s.mem x) ∧
    Memory.wf (s.putBytes o a count v).mem ∧
    ∀ n : Nat, (s.putBytes o a count v).xtag[n]? = (s.xtag[n]?).map fun u : XTag =>
      (⟨u.addr, u.flags, u.dirty || decide (∃ k < count,
        u.addr / 2 ^ s.params.icacheShift = (a.toNat + k) / 2 ^ s.params.icacheShift)⟩ : XTag)

/-- The value that bytes hold: the sum of the bytes, each at its place in the byte order; and the two orders read each other's
bytes reversed (20 R97). The spec takes the byte orders from general knowledge (20 R97). -/
def Obligations.ValueOfBytes : Prop :=
  ∀ (s : State) (a : BitVec 64) (count : Nat),
    (s.valueAt .little a count).toNat =
      ((List.range count).map fun k => (Memory.read s.mem (a.toNat + k)).toNat * 256 ^ k).sum ∧
    (s.valueAt .big a count).toNat =
      ((List.range count).map fun k => (Memory.read s.mem (a.toNat + k)).toNat * 256 ^ (count - 1 - k)).sum

/-- Addresses: with `SR.AQ` = 1 an address is taken whole; with `SR.AQ` = 0 it is the signed number of its low 32 bits, so that it
is canonical and depends on nothing above them; normalising twice is normalising once (20 R91, R92). It rests on decisions and
inferences of the spec (92 D18). -/
def Obligations.Normalisation : Prop :=
  ∀ (s : State) (a b : BitVec 64),
    (s.aq = true → s.ea a = a) ∧
    (s.aq = false → (s.ea a).toInt = (a.setWidth 32).toInt ∧ canonical (s.ea a) = true ∧
      (a.toNat % 2 ^ 32 = b.toNat % 2 ^ 32 → s.ea a = s.ea b)) ∧
    s.ea (s.ea a) = s.ea a ∧
    (canonical a = true ↔ ∀ k, 47 ≤ k → k < 64 → a.getLsbD k = a.getLsbD 47)

/-! Traps. -/

/-- Trap entry. Where `VBR` was written since start-up and the vector can be read it answers a next state: `SSR` holds the old
`SR`; `SPC` holds the instruction after a `TRAPA`, the instruction not started for an interrupt, else the instruction itself or
the branch that owns its delay slot; supervisor mode; `SR.BL` set exactly if `EntrySetsBL` says so; no slot; awake; the program
counter at the handler's address, read in the machine byte order; nothing else changed. Where `VBR` was not written, or the vector
raises, the model stops, and where the vector is on a device it refuses (60 R510 to R513, 20 R105). It rests on decisions and
inferences of the spec (92 D9, D10, D11, D12). What counts as a write of `VBR` is log 4, the branch's address is log 12. -/
def Obligations.TrapEntry : Prop :=
  ∀ (c : Cause) (s : State),
    (s.vbrWritten = true → s.Reads (s.ea (s.vectorAddress c)) s.vecBytes s.vecBytes →
      ∃ t, trapEntry c s = .next t ∧
        Wrote s .ssr s.sr.toNat t ∧
        (∀ imm, c = .trap imm → Wrote s .spc (s.ea (s.pc + 2)).toNat t) ∧
        (∀ level, c = .interrupt level → Wrote s .spc s.pc.toNat t) ∧
        ((∀ imm, c ≠ .trap imm) → (∀ level, c ≠ .interrupt level) →
          (s.slot = none → Wrote s .spc s.pc.toNat t) ∧ ∀ sl, s.slot = some sl → Wrote s .spc sl.branch.toNat t) ∧
        t.md = true ∧ t.bl = (s.bl || s.params.entrySetsBL) ∧
        (∀ k, k ≠ 28 → k ≠ 30 → t.sr.getLsbD k = s.sr.getLsbD k) ∧
        t.pc = s.ea ((s.valueAt s.machineOrder (s.ea (s.vectorAddress c)) s.vecBytes).signExtend 64) ∧
        t = { s with pc := t.pc, sr := t.sr, ssr := t.ssr, spc := t.spc, slot := none, asleep := false }) ∧
    (s.vbrWritten = false → trapEntry c s = .fault .vectorBase) ∧
    (s.vbrWritten = true → s.Misses (s.ea (s.vectorAddress c)) s.vecBytes s.vecBytes → trapEntry c s = .fault .vectorFetch) ∧
    (s.vbrWritten = true → s.OnDevice (s.ea (s.vectorAddress c)) s.vecBytes s.vecBytes →
      trapEntry c s = .refused .deviceAccess)

/-- `RTE`, where the mode may run it and outside a delay slot: it restores `SR` from `SSR` at once and branches, with a delay slot,
to the saved program counter, normalised under the restored `SR` (60 R520; the widths are log 20). The branch's address in the
latch is log 12 (60 R512), the halves of the FPU registers are log 16 (10 R58), and that the slot runs after `SR` is restored is
decision 92 D14. -/
def Obligations.ReturnFromException : Prop :=
  ∀ s : State, s.mayRun .rte = true → s.slot = none →
    ∃ t, exec .rte s = .next t ∧ StatusFrame s t ∧ Wrote s .sr s.ssr.toNat t ∧ t.pc = t.ea (s.pc + 2) ∧
      t.slot = some ⟨t.ea (BitVec.ofNat 64 (s.spNat .spc)), s.pc⟩

/-- The instructions that 60 R531 lists raise `IllegalInstruction` and write nothing where the mode may not run them; in
supervisor mode every instruction may run, in user mode those outside the set; and the default set is exactly that list. It rests
on decisions and inferences of the spec (92 D6). The set is a parameter (log 24). -/
def Obligations.PrivilegedInUserMode : Prop :=
  (∀ (s : State) (i : Instr), s.mayRun i = true ↔ (s.md = true ∨ isIn s.params.privileged i = false)) ∧
  (∀ i : Instr, i.wellFormed = true → isIn Config.conventionalPrivileged i = true → ∃ (n : Reg) (b : BankReg),
    i ∈ [Instr.stcSr n, .stcVbr n, .stcSsr n, .stcSpc n, .stcDbr n, .stcBank b n, .stcSrPush n, .stcVbrPush n, .stcSsrPush n,
      .stcSpcPush n, .stcDbrPush n, .stcBankPush b n, .ldcSr n, .ldcVbr n, .ldcSsr n, .ldcSpc n, .ldcDbr n, .ldcBank n b,
      .ldcSrPop n, .ldcVbrPop n, .ldcSsrPop n, .ldcSpcPop n, .ldcDbrPop n, .ldcBankPop n b, .rte, .sleep, .flushtlb, .invtlb]) ∧
  ∀ (s : State) (n : Reg) (b : BankReg),
    ∀ i ∈ [Instr.stcSr n, .stcVbr n, .stcSsr n, .stcSpc n, .stcDbr n, .stcBank b n, .stcSrPush n, .stcVbrPush n, .stcSsrPush n,
      .stcSpcPush n, .stcDbrPush n, .stcBankPush b n, .ldcSr n, .ldcVbr n, .ldcSsr n, .ldcSpc n, .ldcDbr n, .ldcBank n b,
      .ldcSrPop n, .ldcVbrPop n, .ldcSsrPop n, .ldcSpcPop n, .ldcDbrPop n, .ldcBankPop n b, .rte, .sleep, .flushtlb, .invtlb],
      isIn Config.conventionalPrivileged i = true ∧ (s.mayRun i = false → Traps i s .illegalInstruction)

/-- Branches, PC-relative operations, `TRAPA` and the fat loads, executed in a delay slot, raise `SlotIllegal` and write nothing;
`RTE` too, where its privilege check passes (70 R571, 60 R502, R508). It rests on decisions and inferences of the spec (92 D8,
D41). -/
def Obligations.SlotIllegal : Prop :=
  ∀ (s : State) (sl : Slot) (m : Reg) (d8 : BitVec 8) (d12 : BitVec 12) (d24 : BitVec 24) (d28 : BitVec 28) (d40 : BitVec 40)
    (d56 : BitVec 56), s.slot = some sl →
    (∀ i ∈ [Instr.bsrf m, .bsaf m, .rts, .jsr m, .jmp m, .bt d8, .bf d8, .bts d8, .bfs d8, .bra d12, .bsr d12, .trapa d8, .mova d8,
      .movLqLoadPc d8 m, .ldfatMov24 d24 m, .ldfatMov40 d40 m, .ldfatMov56 d56 m, .ldfatBra d28, .ldfatBsr d28],
      Traps i s .slotIllegal) ∧
    (s.mayRun .rte = true → Traps .rte s .slotIllegal)

/-- With `SR.FD` = 1 every instruction of the FPU group and every move of `FPUL` and `FPSCR` raises `FpuDisabled` and writes
nothing (60 R503). It rests on decisions and inferences of the spec (92 D24). -/
def Obligations.FpuDisabled : Prop :=
  ∀ (s : State) (m n : FReg) (r : Reg), s.fd = true →
    ∀ i ∈ [Instr.fadd m n, .fsub m n, .fmul m n, .fdiv m n, .fcmpeq m n, .fcmpgt m n, .fmovLoadIdx r n, .fmovStoreIdx m r,
      .fmovLoad r n, .fmovPop r n, .fmovStore m r, .fmovPush m r, .fmov m n, .fsts n, .flds m, .float n, .ftrc m, .fneg n, .fabs n,
      .fsqrt n, .fldi0 n, .fldi1 n, .fcnvsd n, .fcnvds m, .fschg, .fmac m n, .stsFpul r, .stsFpscr r, .stsFpulPush r,
      .stsFpscrPush r, .ldsFpulPop r, .ldsFpscrPop r, .ldsFpul r, .ldsFpscr r],
      Traps i s .fpuDisabled

/-- Instructions whose own effect is a trap: `BRK`; `TRAPA` outside a delay slot; every word that names no implemented
instruction, in either mode; and, where the machine has fat loads, a prefix without a layout (60 R501, R505, R507, 30 R153, 49
R477). It rests on decisions and inferences of the spec (92 D7, D32). Each enters where `VBR` was written since start-up (60
R513); what counts as a write is log 4, a prefix without a layout is log 27. -/
def Obligations.TrappingInstructions : Prop :=
  ∀ (s : State) (x4 : BitVec 4) (x8 imm : BitVec 8) (x44 : BitVec 44) (x60 : BitVec 60) (w : InstrWord),
    Enters .brk s .breakpoint ∧
    (s.slot = none → Enters (.trapa imm) s (.trap imm)) ∧
    (s.params.hasFatLoad = true → Enters .ldfatL s .illegalInstruction ∧ Enters .ldfatQ s .illegalInstruction) ∧
    ∀ i ∈ [Instr.fatBsr44 x44, .fatBsr60 x60, .ocbi x4, .ocbp x4, .ocbwb x4, .movrt x4, .stcTbr x4, .rtvN x4, .mulr x4,
      .movmuPush x4, .clipuB x4, .clipsB x4, .stbank x4, .movmlPush x4, .divu x4, .movmuPop x4, .clipuW x4, .clipsW x4, .ldbank x4,
      .movmlPop x4, .ldcTbr x4, .jsrN x4, .movBR0Post x4, .movWR0Post x4, .movLR0Post x4, .movBR0Pre x4, .movWR0Pre x4, .movLR0Pre x4,
      .jsrN8 x8, .bset x8, .bst x8, .ftrv x4, .fipr x4, .ldtlb, .nott, .resbank, .rtsN, .frchg, .unused w, .reserved w, .unlisted w],
      Enters i s .illegalInstruction

/-- The cases to which the spec gives no meaning stop by name: the FPU group with `FPSCR.FR` = 1, a calculation with `SR.AQ` = 1
and `FPSCR.PR` = 1, `FMOV.S` with `SR.AQ` = 1 and `FPSCR.SZ` = 0, an odd field where a pair is needed, the constants and `FMAC` in
split-double mode, the conversions in single mode, `MAC.L` and `MAC.W/Q` at 64 bits, the fat loads on a machine without them,
execution with `SR.AQ` = 1 and `SR.DQ` = 0 where the parameter forbids it, and a machine with an MMU (48 R430, R444, R452 to R458,
40 R242, 44 R358, 49 R470, 10 R62, 20 R117; log 8, log 21, log 22, log 29). -/
def Obligations.StopsByName : Prop :=
  ∀ (s : State) (m n : FReg) (r q : Reg) (d24 : BitVec 24) (d28 : BitVec 28) (d40 : BitVec 40) (d56 : BitVec 56),
    (s.wide = true → exec (.macL r q) s = .refused .macLongWide ∧ exec (.macWq r q) s = .refused .macWordWide) ∧
    (s.params.hasFatLoad = false → s.slot = none → ∀ i ∈ [Instr.ldfatL, .ldfatQ, .ldfatMov24 d24 r, .ldfatMov40 d40 r,
      .ldfatMov56 d56 r, .ldfatBra d28, .ldfatBsr d28], exec i s = .refused .fatLoadAbsent) ∧
    (s.fd = false → s.fpBank = true → ∀ i ∈ [Instr.fadd m n, .fsub m n, .fmul m n, .fdiv m n, .fcmpeq m n, .fcmpgt m n,
      .fmovLoadIdx r n, .fmovStoreIdx m r, .fmovLoad r n, .fmovPop r n, .fmovStore m r, .fmovPush m r, .fmov m n, .fsts n, .flds m,
      .float n, .ftrc m, .fneg n, .fabs n, .fsqrt n, .fldi0 n, .fldi1 n, .fcnvsd n, .fcnvds m, .fschg, .fmac m n],
      exec i s = .refused .fpuBank) ∧
    (s.fd = false → s.fpBank = false → s.aq = true → s.fpPrec = true → ∀ i ∈ [Instr.fadd m n, .fsub m n, .fmul m n, .fdiv m n,
      .fcmpeq m n, .fcmpgt m n, .float n, .ftrc m, .fneg n, .fabs n, .fsqrt n, .fldi0 n, .fldi1 n, .fcnvsd n, .fcnvds m, .fmac m n],
      exec i s = .refused .fpuReservedMode) ∧
    (s.fd = false → s.fpBank = false → s.aq = true → s.fpSize = false → ∀ i ∈ [Instr.fmovLoadIdx r n, .fmovStoreIdx m r,
      .fmovLoad r n, .fmovPop r n, .fmovStore m r, .fmovPush m r], exec i s = .refused .fpuMoveSize) ∧
    (s.FpuReady .split →
      (∀ i ∈ [Instr.fldi0 n, .fldi1 n, .fmac m n], exec i s = .refused .fpuSplitDouble) ∧
      (m.getLsbD 0 = true ∨ n.getLsbD 0 = true → ∀ i ∈ [Instr.fadd m n, .fsub m n, .fmul m n, .fdiv m n, .fcmpeq m n, .fcmpgt m n],
        exec i s = .refused .fpuOddPair) ∧
      (n.getLsbD 0 = true → ∀ i ∈ [Instr.float n, .ftrc n, .fneg n, .fabs n, .fsqrt n, .fcnvsd n, .fcnvds n],
        exec i s = .refused .fpuOddPair)) ∧
    (s.fd = false → s.fpBank = false → s.aq = false → s.fpSize = true →
      (n.getLsbD 0 = true → ∀ i ∈ [Instr.fmovLoadIdx r n, .fmovStoreIdx n r, .fmovLoad r n, .fmovPop r n, .fmovStore n r,
        .fmovPush n r], exec i s = .refused .fpuOddPair) ∧
      (m.getLsbD 0 = true ∨ n.getLsbD 0 = true → exec (.fmov m n) s = .refused .fpuOddPair)) ∧
    (s.FpuReady .single → ∀ i ∈ [Instr.fcnvsd n, .fcnvds m], exec i s = .refused .fpuConvertSingle) ∧
    (s.params.hasMMU = false → s.accepted = none → s.asleep = false → s.aq = true → s.dq = false →
      s.params.allowAQwithoutDQ = false → step s = .refused .aqWithoutDq) ∧
    (s.params.hasMMU = true → step s = .refused .mmu)

/-- An access to a device, and a store to read-only memory, stop by name, for every form of every instruction that accesses
memory, where its own checks let it reach the access; so does the fetch of an instruction from a device. An instruction that reads
and stores stops at the read on a device and at the store in read-only memory. The spec does not say what such a device or memory
does (20 R105, 92 D18, log 15); an FPU pair is one access of 8 bytes (log 35). -/
def Obligations.DeviceAccesses : Prop :=
  ∀ (s : State) (m n : Reg) (b : BankReg) (d4 : BitVec 4) (d8 : BitVec 8) (q k : Nat) (f : FReg),
    q = (if s.dq then 8 else 2) → k = s.fpBytes →
    DevicesRefuse s [(.movBLoadIdx m n, s.x 0 + s.x m, 1), (.movWqLoadIdx m n, s.x 0 + s.x m, q),
      (.movLLoadIdx m n, s.x 0 + s.x m, 4), (.movWLoadR0 m, s.x m, 2), (.movWLoad m n, s.x m, 2),
      (.movBLoad m n, s.x m, 1), (.movWqLoad m n, s.x m, q), (.movLLoad m n, s.x m, 4),
      (.movLLoadDisp m d4 n, s.x m + BitVec.ofNat s.W (4 * d4.toNat), 4),
      (.movBLoadR0Disp m d4, s.x m + BitVec.ofNat s.W d4.toNat, 1),
      (.movWqLoadR0Disp m d4, s.x m + BitVec.ofNat s.W (q * d4.toNat), q),
      (.movWqLoadDisp m d4 n, s.x m + BitVec.ofNat s.W (q * d4.toNat), q),
      (.movBLoadGbr d8, s.readSpecial .gbr + BitVec.ofNat s.W d8.toNat, 1),
      (.movWqLoadGbr d8, s.readSpecial .gbr + BitVec.ofNat s.W (q * d8.toNat), q),
      (.movLLoadGbr d8, s.readSpecial .gbr + BitVec.ofNat s.W (4 * d8.toNat), 4), (.movBPop m n, s.x m, 1),
      (.movWqPop m n, s.x m, q), (.movLPop m n, s.x m, 4), (.tasB m, s.x m, 1), (.casL m n, s.x 0, 4),
      (.tstB d8, s.readSpecial .gbr + s.x 0, 1), (.andB d8, s.readSpecial .gbr + s.x 0, 1),
      (.xorB d8, s.readSpecial .gbr + s.x 0, 1), (.orB d8, s.readSpecial .gbr + s.x 0, 1),
      (.ldsMachPop m, s.x m, s.szLQ), (.ldsMaclPop m, s.x m, s.szLQ), (.ldsPrPop m, s.x m, s.szLQ),
      (.ldcGbrPop m, s.x m, s.szLQ)] ∧
    (∀ i ∈ [Instr.ldcSrPop m, .ldcVbrPop m, .ldcSsrPop m, .ldcSpcPop m, .ldcDbrPop m, .ldcBankPop m b], s.mayRun i = true →
      DevicesRefuse s [(i, s.x m, s.szLQ)]) ∧
    (s.fd = false → DevicesRefuse s [(.ldsFpulPop m, s.x m, s.szLQ), (.ldsFpscrPop m, s.x m, s.szLQ)]) ∧
    (s.slot = none →
      (s.OnDevice (s.literal d8) 4 4 → exec (.movLqLoadPc d8 n) s = .refused .deviceAccess) ∧
      (s.wide = true → s.Reads (s.literal d8) 4 4 → s.OnDevice (s.ea (s.literal d8 + 4)) 4 4 →
        exec (.movLqLoadPc d8 n) s = .refused .deviceAccess)) ∧
    (s.wide = false → ∀ p ∈ [(Instr.macL m n, 4), (.macWq m n, 2)],
      (s.OnDevice (s.ea ((s.x n).setWidth 64)) p.2 p.2 → exec p.1 s = .refused .deviceAccess) ∧
      (s.Reads (s.ea ((s.x n).setWidth 64)) p.2 p.2 →
        s.OnDevice (s.ea ((if m = n then s.x m + BitVec.ofNat s.W p.2 else s.x m).setWidth 64)) p.2 p.2 →
        exec p.1 s = .refused .deviceAccess)) ∧
    StoresRefuse s [(.movBStoreIdx m n, s.x 0 + s.x n, 1), (.movWqStoreIdx m n, s.x 0 + s.x n, q),
      (.movLStoreIdx m n, s.x 0 + s.x n, 4), (.movBStore m n, s.x n, 1), (.movWqStore m n, s.x n, q),
      (.movLStore m n, s.x n, 4), (.movWStoreR0 n, s.x n, 2), (.movcaL n, s.x n, 4),
      (.movLStoreDisp m n d4, s.x n + BitVec.ofNat s.W (4 * d4.toNat), 4),
      (.movBStoreR0Disp n d4, s.x n + BitVec.ofNat s.W d4.toNat, 1),
      (.movWqStoreR0Disp n d4, s.x n + BitVec.ofNat s.W (q * d4.toNat), q),
      (.movBStoreGbr d8, s.readSpecial .gbr + BitVec.ofNat s.W d8.toNat, 1),
      (.movWqStoreGbr d8, s.readSpecial .gbr + BitVec.ofNat s.W (q * d8.toNat), q),
      (.movLStoreGbr d8, s.readSpecial .gbr + BitVec.ofNat s.W (4 * d8.toNat), 4), (.movBPush m n, s.x n - BitVec.ofNat s.W 1, 1),
      (.movWqPush m n, s.x n - BitVec.ofNat s.W q, q), (.movLPush m n, s.x n - BitVec.ofNat s.W 4, 4),
      (.stsMachPush n, s.x n - BitVec.ofNat s.W s.szLQ, s.szLQ), (.stsMaclPush n, s.x n - BitVec.ofNat s.W s.szLQ, s.szLQ),
      (.stsPrPush n, s.x n - BitVec.ofNat s.W s.szLQ, s.szLQ), (.stcGbrPush n, s.x n - BitVec.ofNat s.W s.szLQ, s.szLQ)] ∧
    (∀ i ∈ [Instr.stcSrPush n, .stcVbrPush n, .stcSsrPush n, .stcSpcPush n, .stcDbrPush n, .stcBankPush b n], s.mayRun i = true →
      StoresRefuse s [(i, s.x n - BitVec.ofNat s.W s.szLQ, s.szLQ)]) ∧
    (s.fd = false → StoresRefuse s [(.stsFpulPush n, s.x n - BitVec.ofNat s.W s.szLQ, s.szLQ),
      (.stsFpscrPush n, s.x n - BitVec.ofNat s.W s.szLQ, s.szLQ)]) ∧
    (s.OnRom (s.ea ((s.x m).setWidth 64)) 1 1 → exec (.tasB m) s = .refused .romWrite) ∧
    (s.OnRom (s.ea ((s.readSpecial .gbr + s.x 0).setWidth 64)) 1 1 → ∀ i ∈ [Instr.andB d8, .xorB d8, .orB d8],
      exec i s = .refused .romWrite) ∧
    (s.OnRom (s.ea ((s.x 0).setWidth 64)) 4 4 →
      s.xNat (if s.params.casRoles = .compareRm then m else n) % 2 ^ 32 =
        (s.valueAt s.localOrder (s.ea ((s.x 0).setWidth 64)) 4).toNat → exec (.casL m n) s = .refused .romWrite) ∧
    (s.FpMoves f →
      DevicesRefuse s [(.fmovLoad m f, s.x m, k), (.fmovPop m f, s.x m, k), (.fmovLoadIdx m f, s.x 0 + s.x m, k)] ∧
      StoresRefuse s [(.fmovStore f n, s.x n, k), (.fmovStoreIdx f n, s.x 0 + s.x n, k),
        (.fmovPush f n, s.x n - BitVec.ofNat s.W k, k)]) ∧
    (s.OnDevice s.pc 2 2 → s.runInstr = .refused .deviceAccess)

/-! Arithmetic and logic. -/

/-- `ADD`, `ADDC`, `ADDV`, `SUB`, `SUBV`: their words, results and `T`, on unsigned numbers for the carry and on signed numbers for
the overflow; nothing else changes (42 R277, R279, R280, R282, R283). `SUB` and `SUBV` rest on the sentence of the header of file
42 "In every two-operand row `Rn` is the left operand of the comparison or subtraction", which it marks as general knowledge, not
in source; every clause with `T`, and the width of every result, on decision 92 D1 (values and flags at width `W`). Which register
a number names where `BankSel` tests a bit that the instruction writes is log 24. -/
def Obligations.AddAndSubtract : Prop :=
  ∀ (s : State) (m n : Reg),
    (decodeWord (word4 0x3 n m 0xC) = .add m n ∧ decodeWord (word4 0x3 n m 0xE) = .addc m n ∧
      decodeWord (word4 0x3 n m 0xF) = .addv m n ∧ decodeWord (word4 0x3 n m 0x8) = .sub m n ∧
      decodeWord (word4 0x3 n m 0xB) = .subv m n) ∧
    Yields (.add m n) s n ((s.xNat n + s.xNat m) % 2 ^ s.W) ∧
    YieldsWithT (.addc m n) s n ((s.xNat n + s.xNat m + s.t.toNat) % 2 ^ s.W) (2 ^ s.W ≤ s.xNat n + s.xNat m + s.t.toNat) ∧
    YieldsWithT (.addv m n) s n ((s.xInt n + s.xInt m) % 2 ^ s.W).toNat
      (s.xInt n + s.xInt m < -2 ^ (s.W - 1) ∨ 2 ^ (s.W - 1) - 1 < s.xInt n + s.xInt m) ∧
    Yields (.sub m n) s n (((s.xNat n : Int) - s.xNat m) % 2 ^ s.W).toNat ∧
    YieldsWithT (.subv m n) s n ((s.xInt n - s.xInt m) % 2 ^ s.W).toNat
      (s.xInt n - s.xInt m < -2 ^ (s.W - 1) ∨ 2 ^ (s.W - 1) - 1 < s.xInt n - s.xInt m)

/-- `ADD #imm`, `SUBC`, `NEG`, `NEGC`, `DT`: results and `T`; nothing else changes. The spec takes these operations from the SH
family (log 30). Which register a number names where `BankSel` tests a bit that the instruction writes is log 24. -/
def Obligations.MoreArithmetic : Prop :=
  ∀ (s : State) (m n : Reg) (imm : BitVec 8),
    Yields (.addImm imm n) s n (((s.xNat n : Int) + imm.toInt) % 2 ^ s.W).toNat ∧
    YieldsWithT (.subc m n) s n (((s.xNat n : Int) - s.xNat m - s.t.toNat) % 2 ^ s.W).toNat
      ((s.xNat n : Int) - s.xNat m - s.t.toNat < 0) ∧
    Yields (.neg m n) s n ((-(s.xNat m : Int)) % 2 ^ s.W).toNat ∧
    YieldsWithT (.negc m n) s n ((-(s.xNat m : Int) - s.t.toNat) % 2 ^ s.W).toNat (-(s.xNat m : Int) - s.t.toNat < 0) ∧
    YieldsWithT (.dt n) s n (((s.xNat n : Int) - 1) % 2 ^ s.W).toNat (s.xNat n = 1)

/-- The comparisons of two registers: their words, and `T` by the order of unsigned or signed numbers; nothing else changes (42
R270, R271, R272, R275, R276). The ordered ones rest on the sentence of the header of file 42 "In every two-operand row `Rn` is the
left operand of the comparison or subtraction: `CMPGT Rm, Rn` tests `Rn > Rm`", which it marks as general knowledge, not in source;
all of them on decision 92 D1 (values and flags at width `W`). -/
def Obligations.Comparisons : Prop :=
  ∀ (s : State) (m n : Reg),
    (decodeWord (word4 0x3 n m 0x0) = .cmpeq m n ∧ decodeWord (word4 0x3 n m 0x2) = .cmphs m n ∧
      decodeWord (word4 0x3 n m 0x3) = .cmpge m n ∧ decodeWord (word4 0x3 n m 0x6) = .cmphi m n ∧
      decodeWord (word4 0x3 n m 0x7) = .cmpgt m n) ∧
    SetsT (.cmpeq m n) s (s.xNat n = s.xNat m) ∧
    SetsT (.cmphs m n) s (s.xNat m ≤ s.xNat n) ∧
    SetsT (.cmpge m n) s (s.xInt m ≤ s.xInt n) ∧
    SetsT (.cmphi m n) s (s.xNat m < s.xNat n) ∧
    SetsT (.cmpgt m n) s (s.xInt m < s.xInt n)

/-- The other tests of registers: against an immediate, against zero, for common bits and for a common byte; nothing else changes.
The spec takes these operations from the SH family (log 30). -/
def Obligations.Tests : Prop :=
  ∀ (s : State) (m n : Reg) (imm : BitVec 8),
    SetsT (.cmpeqImm imm) s (s.xInt 0 = imm.toInt) ∧
    SetsT (.cmppz n) s (0 ≤ s.xInt n) ∧
    SetsT (.cmppl n) s (0 < s.xInt n) ∧
    SetsT (.tst m n) s (∀ k < s.W, ¬ (s.xBit n k = true ∧ s.xBit m k = true)) ∧
    SetsT (.tstImm imm) s (∀ k < 8, ¬ (s.xBit 0 k = true ∧ imm.getLsbD k = true)) ∧
    SetsT (.cmpstr m n) s (∃ k < s.W / 8, s.xNat n / 2 ^ (8 * k) % 256 = s.xNat m / 2 ^ (8 * k) % 256)

/-- `AND`, `OR`, `XOR` of registers bit by bit, and `MOV #imm`: their words and results; nothing else changes (41 R260, R261,
R262, 46 R424). -/
def Obligations.LogicAndImmediate : Prop :=
  ∀ (s : State) (m n : Reg) (i1 i0 : Nibble),
    (decodeWord (word4 0x2 n m 0x9) = .and m n ∧ decodeWord (word4 0x2 n m 0xA) = .xor m n ∧
      decodeWord (word4 0x2 n m 0xB) = .or m n ∧ decodeWord (word4 0xE n i1 i0) = .movImm (i1 ++ i0) n) ∧
    YieldsBits (.and m n) s n (fun k => s.xBit n k && s.xBit m k) ∧
    YieldsBits (.xor m n) s n (fun k => s.xBit n k ^^ s.xBit m k) ∧
    YieldsBits (.or m n) s n (fun k => s.xBit n k || s.xBit m k) ∧
    YieldsInt (.movImm (i1 ++ i0) n) s n (i1 ++ i0 : BitVec 8).toInt

/-- `NOT` and the logic with an immediate, `MOV`, the extensions, `MOVT`, `LDSH8`: results; nothing else changes. The spec takes
these operations from the SH family, or decides them (log 30). -/
def Obligations.MovesAndExtensions : Prop :=
  ∀ (s : State) (m n : Reg) (imm : BitVec 8),
    YieldsBits (.not m n) s n (fun k => !(s.xBit m k)) ∧
    YieldsBits (.andImm imm) s 0 (fun k => s.xBit 0 k && imm.getLsbD k) ∧
    YieldsBits (.xorImm imm) s 0 (fun k => s.xBit 0 k ^^ imm.getLsbD k) ∧
    YieldsBits (.orImm imm) s 0 (fun k => s.xBit 0 k || imm.getLsbD k) ∧
    Yields (.mov m n) s n (s.xNat m) ∧
    Yields (.extuB m n) s n (s.xNat m % 2 ^ 8) ∧
    YieldsInt (.extsB m n) s n (Int.bmod (s.xNat m) (2 ^ 8)) ∧
    Yields (.extuW m n) s n (s.xNat m % 2 ^ 16) ∧
    YieldsInt (.extsW m n) s n (Int.bmod (s.xNat m) (2 ^ 16)) ∧
    Yields (.extuL n) s n (s.xNat n % 2 ^ 32) ∧
    YieldsInt (.extsL n) s n (Int.bmod (s.xNat n) (2 ^ 32)) ∧
    Yields (.movt n) s n (if s.t then 1 else 0) ∧
    Yields (.ldsh8 imm) s 0 ((s.xNat 0 * 2 ^ 8 + imm.toNat) % 2 ^ s.W)

/-- `CLRT`, `SETT`, `CLRS`, `SETS` and `NOP`: their words, the one bit of `SR` they write, and nothing else (40 R216, R217, R219,
R220, R225). -/
def Obligations.SingleFlags : Prop :=
  (decodeWord 0x0008 = .clrt ∧ decodeWord 0x0018 = .sett ∧ decodeWord 0x0048 = .clrs ∧ decodeWord 0x0058 = .sets ∧
    decodeWord 0x0009 = .nop) ∧
  ∀ s : State,
    SetsT .clrt s False ∧ SetsT .sett s True ∧
    Completes .clrs s { srBits := [1] } (fun t => t.satur = false) ∧
    Completes .sets s { srBits := [1] } (fun t => t.satur = true) ∧
    Completes .nop s {} (fun t => t.sr = s.sr)

/-- The width flag, the prefetch, the cache instructions and `SLEEP`: `SR.DQ` alone; nothing; the tags alone; asleep. The
privileged ones complete in supervisor mode (40 R210, R221 to R224, R234). It rests on decisions and inferences of the spec (92
D13, D22, D33). -/
def Obligations.ModeAndCache : Prop :=
  ∀ (s : State) (n : Reg),
    Completes .clrdq s { srBits := [20] } (fun t => t.dq = false ∧ t.aq = s.aq) ∧
    Completes .setdq s { srBits := [20] } (fun t => t.dq = true ∧ t.W = 64) ∧
    Completes (.pref n) s {} (fun t => t.mem = s.mem) ∧
    (∀ i ∈ [Instr.flushtlb, .invtlb], s.mayRun i = true →
      ∃ t, exec i s = .next t ∧ Frame {} { s with xtag := [] } t ∧ Advances 2 s t) ∧
    (s.mayRun .sleep = true → ∃ t, exec .sleep s = .next t ∧ Frame {} { s with asleep := true } t ∧ Advances 2 s t)

/-- The division instructions: `DIV0U` clears `M`, `Q` and `T`; `DIV0S` sets `Q` and `M` to the signs and `T` to their difference;
`DIV1` is one step of a non-restoring division. The spec takes the algorithm from the SH family (log 30). Which register a number
names where `BankSel` tests a bit that the instruction writes is log 24. -/
def Obligations.DivisionSteps : Prop :=
  ∀ (s : State) (m n : Reg),
    Completes .div0u s { srBits := [0, 8, 9] } (fun t => t.m = false ∧ t.q = false ∧ t.t = false) ∧
    Completes (.div0s m n) s { srBits := [0, 8, 9] } (fun t =>
      (t.q = true ↔ s.xInt n < 0) ∧ (t.m = true ↔ s.xInt m < 0) ∧ t.t = (t.q ^^ t.m)) ∧
    Completes (.div1 m n) s { regs := [n], srBits := [0, 8] } (fun t =>
      ∃ r r2 : Nat, ∃ c : Bool, r = (2 * s.xNat n + s.t.toNat) % 2 ^ s.W ∧
        (s.q = s.m → r2 = (((r : Int) - s.xNat m) % 2 ^ s.W).toNat ∧ (c = true ↔ r < r2)) ∧
        (s.q ≠ s.m → r2 = (r + s.xNat m) % 2 ^ s.W ∧ (c = true ↔ r2 < r)) ∧
        s.xNatIn t n = r2 ∧ t.q = (decide (s.xInt n < 0) ^^ c ^^ s.m) ∧ (t.t = true ↔ t.q = s.m))

/-- The shifts and rotates by a fixed count: results on numbers, and `T` as the bit shifted out of a one-bit form; nothing else
changes. The spec takes these operations from the SH family (log 30). Which register a number names where `BankSel` tests a bit
that the instruction writes is log 24. -/
def Obligations.Shifts : Prop :=
  ∀ (s : State) (n : Reg),
    YieldsWithT (.shll n) s n (2 * s.xNat n % 2 ^ s.W) (2 ^ (s.W - 1) ≤ s.xNat n) ∧
    YieldsWithT (.shal n) s n (2 * s.xNat n % 2 ^ s.W) (2 ^ (s.W - 1) ≤ s.xNat n) ∧
    YieldsWithT (.shlr n) s n (s.xNat n / 2) (s.xNat n % 2 = 1) ∧
    YieldsWithT (.shar n) s n ((s.xInt n / 2) % 2 ^ s.W).toNat (s.xNat n % 2 = 1) ∧
    YieldsWithT (.rotl n) s n (2 * s.xNat n % 2 ^ s.W + s.xNat n / 2 ^ (s.W - 1)) (2 ^ (s.W - 1) ≤ s.xNat n) ∧
    YieldsWithT (.rotcl n) s n (2 * s.xNat n % 2 ^ s.W + s.t.toNat) (2 ^ (s.W - 1) ≤ s.xNat n) ∧
    YieldsWithT (.rotr n) s n (s.xNat n / 2 + s.xNat n % 2 * 2 ^ (s.W - 1)) (s.xNat n % 2 = 1) ∧
    YieldsWithT (.rotcr n) s n (s.xNat n / 2 + s.t.toNat * 2 ^ (s.W - 1)) (s.xNat n % 2 = 1) ∧
    Yields (.shll2 n) s n (s.xNat n * 2 ^ 2 % 2 ^ s.W) ∧ Yields (.shll8 n) s n (s.xNat n * 2 ^ 8 % 2 ^ s.W) ∧
    Yields (.shll16 n) s n (s.xNat n * 2 ^ 16 % 2 ^ s.W) ∧
    Yields (.shlr2 n) s n (s.xNat n / 2 ^ 2) ∧ Yields (.shlr8 n) s n (s.xNat n / 2 ^ 8) ∧
    Yields (.shlr16 n) s n (s.xNat n / 2 ^ 16)

/-- The dynamic shifts: left by the count modulo `W` when the count register is not negative; else right by `W` less that, or all
the way when it is 0. The spec takes these operations from the SH family (log 30). -/
def Obligations.DynamicShifts : Prop :=
  ∀ (s : State) (m n : Reg),
    (0 ≤ s.xInt m →
      Yields (.shad m n) s n (s.xNat n * 2 ^ (s.xNat m % s.W) % 2 ^ s.W) ∧
      Yields (.shld m n) s n (s.xNat n * 2 ^ (s.xNat m % s.W) % 2 ^ s.W)) ∧
    (s.xInt m < 0 → s.xNat m % s.W = 0 →
      YieldsInt (.shad m n) s n (if s.xInt n < 0 then -1 else 0) ∧ Yields (.shld m n) s n 0) ∧
    (s.xInt m < 0 → s.xNat m % s.W ≠ 0 →
      YieldsInt (.shad m n) s n (s.xInt n / 2 ^ (s.W - s.xNat m % s.W)) ∧
      Yields (.shld m n) s n (s.xNat n / 2 ^ (s.W - s.xNat m % s.W)))

/-- The exchanges of bytes and halves: results on numbers; `BSWAP.L` fixes bits 31:0 only, and `BSWAP.Q` and `SWAP.L` at `W` = 32
fix no value; nothing else changes (41 R264, 43 R312 to R314, 45 R374, R375, decided or from the SH family, log 30). -/
def Obligations.Exchanges : Prop :=
  ∀ (s : State) (m n : Reg),
    Yields (.swapB m n) s n (s.xNat m / 2 ^ 16 * 2 ^ 16 + s.xNat m % 2 ^ 8 * 2 ^ 8 + s.xNat m / 2 ^ 8 % 2 ^ 8) ∧
    Yields (.swapW m n) s n (s.xNat m / 2 ^ 32 * 2 ^ 32 + s.xNat m % 2 ^ 16 * 2 ^ 16 + s.xNat m / 2 ^ 16 % 2 ^ 16) ∧
    Yields (.xtrct m n) s n (s.xNat m % 2 ^ (s.W / 2) * 2 ^ (s.W / 2) + s.xNat n / 2 ^ (s.W / 2)) ∧
    Completes (.bswapL n) s { regs := [n] } (fun t =>
      ∀ k < 4, t.xNat n / 2 ^ (8 * k) % 256 = s.xNat n / 2 ^ (8 * (3 - k)) % 256) ∧
    Completes (.bswapQ n) s { regs := [n] } (fun t =>
      s.wide = true → ∀ k < 8, t.xNat n / 2 ^ (8 * k) % 256 = s.xNat n / 2 ^ (8 * (7 - k)) % 256) ∧
    Completes (.swapL n) s { regs := [n] } (fun t =>
      s.wide = true → t.xNat n = s.xNat n % 2 ^ 32 * 2 ^ 32 + s.xNat n / 2 ^ 32)

/-- `MUL.L/Q`, `DMULU.L/Q`, `DMULS.L/Q`: their words; the low half of the product, or both halves, in `MACL` and `MACH` at the
width of the registers; nothing else changes (40 R215, 42 R274, R281). -/
def Obligations.Multiplications : Prop :=
  ∀ (s : State) (m n : Reg),
    (decodeWord (word4 0x0 n m 0x7) = .mulLq m n ∧ decodeWord (word4 0x3 n m 0x5) = .dmuluLq m n ∧
      decodeWord (word4 0x3 n m 0xD) = .dmulsLq m n) ∧
    Puts (.mulLq m n) s .macl (s.xNat n * s.xNat m % 2 ^ s.W) ∧
    Completes (.dmuluLq m n) s { specials := [.mach, .macl] } (fun t =>
      Wrote s .mach (s.xNat n * s.xNat m / 2 ^ s.W) t ∧ Wrote s .macl (s.xNat n * s.xNat m % 2 ^ s.W) t) ∧
    Completes (.dmulsLq m n) s { specials := [.mach, .macl] } (fun t =>
      Wrote s .mach (s.xInt n * s.xInt m / 2 ^ s.W % 2 ^ s.W).toNat t ∧
      Wrote s .macl (s.xInt n * s.xInt m % 2 ^ s.W).toNat t)

/-- `MULU.W/L` and `MULS.W/L`: the product of the low halves of `szWL` bytes, extended to the width of the registers, in `MACL`;
and `CLRMAC`, which clears both halves at that width; nothing else changes (41 R265, R266, 40 R218). -/
def Obligations.HalfMultiplications : Prop :=
  ∀ (s : State) (m n : Reg) (k : Nat), k = (if s.dq then 32 else 16) →
    Puts (.muluWl m n) s .macl (s.xNat n % 2 ^ k * (s.xNat m % 2 ^ k)) ∧
    Puts (.mulsWl m n) s .macl (Int.bmod (s.xNat n) (2 ^ k) * Int.bmod (s.xNat m) (2 ^ k) % 2 ^ s.W).toNat ∧
    Completes .clrmac s { specials := [.mach, .macl] } (fun t => Wrote s .mach 0 t ∧ Wrote s .macl 0 t)

/-- `MAC.L` and `MAC.W/Q` at 32 bits, where both operands can be read: the first read at `@Rn+`, the second at `@Rm+` with the
register moved on if it is the same; both registers past their operands; the accumulator the exact sum modulo 2^64, or with `SR.S`
= 1 for `MAC.L` the signed sum held to 48 bits, for `MAC.W/Q` `MACL` alone held to 32 bits with bit 0 of `MACH` set on overflow.
Where the second read misses, the first increment has happened (40 R242, 44 R358, from the SH family, log 30). The address that
`AddressError` carries is log 38. That the first increment stays is R242's and R358's word, the state it stays in log 36. -/
def Obligations.MultiplyAccumulate : Prop :=
  ∀ (s : State) (m n : Reg) (count : Nat) (i : Instr) (e1 e2 : BitVec 64) (p acc : Int),
    s.wide = false → ((i = .macL m n ∧ count = 4) ∨ (i = .macWq m n ∧ count = 2)) →
    e1 = s.ea ((s.x n).setWidth 64) →
    e2 = s.ea ((if m = n then s.x m + BitVec.ofNat s.W count else s.x m).setWidth 64) →
    p = (s.valueAt s.localOrder e1 count).toInt * (s.valueAt s.localOrder e2 count).toInt →
    acc = (s.mach.toNat % 2 ^ 32 : Nat) * 2 ^ 32 + (s.macl.toNat % 2 ^ 32 : Nat) →
    s.Reads e1 count count →
    (s.Reads e2 count count → Completes i s { regs := [m, n], specials := [.mach, .macl] } (fun t =>
      t.xNat m = (s.xNat m + (if m = n then 2 * count else count)) % 2 ^ 32 ∧
      t.xNat n = (s.xNat n + (if m = n then 2 * count else count)) % 2 ^ 32 ∧
      t.mach.toNat / 2 ^ 32 = s.mach.toNat / 2 ^ 32 ∧ t.macl.toNat / 2 ^ 32 = s.macl.toNat / 2 ^ 32 ∧
      (s.satur = false →
        ((t.mach.toNat % 2 ^ 32 : Nat) : Int) * 2 ^ 32 + (t.macl.toNat % 2 ^ 32 : Nat) = (acc + p) % 2 ^ 64) ∧
      (s.satur = true → i = .macL m n →
        ((t.mach.toNat % 2 ^ 32 : Nat) : Int) * 2 ^ 32 + (t.macl.toNat % 2 ^ 32 : Nat) =
          max (-2 ^ 47) (min (2 ^ 47 - 1) (Int.bmod acc (2 ^ 64) + p)) % 2 ^ 64) ∧
      (s.satur = true → i = .macWq m n →
        ((t.macl.toNat % 2 ^ 32 : Nat) : Int) =
          max (-2 ^ 31) (min (2 ^ 31 - 1) (Int.bmod s.macl.toNat (2 ^ 32) + p)) % 2 ^ 32 ∧
        ∀ k < 32, t.mach.getLsbD k = (s.mach.getLsbD k ||
          (k == 0 && (decide (Int.bmod s.macl.toNat (2 ^ 32) + p < -2 ^ 31) ||
            decide (2 ^ 31 - 1 < Int.bmod s.macl.toNat (2 ^ 32) + p))))))) ∧
    (s.Misses e2 count count →
      exec i s = trapEntry (.addressError e2 .read) (s.setX n (s.x n + BitVec.ofNat s.W count)))

/-! Memory instructions. -/

/-- The loads of the source's own rows: `@(R0,Rm)`, and the two Word forms that take the place of a displacement of 0. Their words;
where the access can be made the register receives the sign-extended value in the local byte order and nothing else changes; where
it misses, `AddressError` and nothing is written (40 R239, R240, R241, 46 R391, R399). The checks beside alignment rest on 92 D18.
The address that `AddressError` carries is log 38. -/
def Obligations.IndexedLoads : Prop :=
  ∀ (s : State) (m n : Reg),
    (decodeWord (word4 0x0 n m 0xC) = .movBLoadIdx m n ∧ decodeWord (word4 0x0 n m 0xD) = .movWqLoadIdx m n ∧
      decodeWord (word4 0x0 n m 0xE) = .movLLoadIdx m n ∧ decodeWord (word4 0x8 0x5 m 0x0) = .movWLoadR0 m ∧
      decodeWord (word4 0x9 n m 0x0) = .movWLoad m n) ∧
    Loads (.movBLoadIdx m n) s ((s.x 0 + s.x m).setWidth 64) 1 n ∧
    Loads (.movWqLoadIdx m n) s ((s.x 0 + s.x m).setWidth 64) (if s.dq then 8 else 2) n ∧
    Loads (.movLLoadIdx m n) s ((s.x 0 + s.x m).setWidth 64) 4 n ∧
    Loads (.movWLoadR0 m) s ((s.x m).setWidth 64) 2 0 ∧
    Loads (.movWLoad m n) s ((s.x m).setWidth 64) 2 n

/-- The other loads: `@Rm`, `@(Rm,disp)` and `@(GBR,disp)`, the displacement counted in operands; as in the statement before (45
R365 to R368, 46 R389, R390, R398, 47 R411 to R413, derived or from the SH family, log 30). The address that `AddressError` carries
is log 38. -/
def Obligations.OtherLoads : Prop :=
  ∀ (s : State) (m n : Reg) (d4 : BitVec 4) (d8 : BitVec 8) (q : Nat), q = (if s.dq then 8 else 2) →
    Loads (.movBLoad m n) s ((s.x m).setWidth 64) 1 n ∧
    Loads (.movWqLoad m n) s ((s.x m).setWidth 64) q n ∧
    Loads (.movLLoad m n) s ((s.x m).setWidth 64) 4 n ∧
    Loads (.movLLoadDisp m d4 n) s ((s.x m + BitVec.ofNat s.W (4 * d4.toNat)).setWidth 64) 4 n ∧
    Loads (.movBLoadR0Disp m d4) s ((s.x m + BitVec.ofNat s.W d4.toNat).setWidth 64) 1 0 ∧
    Loads (.movWqLoadR0Disp m d4) s ((s.x m + BitVec.ofNat s.W (q * d4.toNat)).setWidth 64) q 0 ∧
    Loads (.movWqLoadDisp m d4 n) s ((s.x m + BitVec.ofNat s.W (q * d4.toNat)).setWidth 64) q n ∧
    Loads (.movBLoadGbr d8) s ((s.readSpecial .gbr + BitVec.ofNat s.W d8.toNat).setWidth 64) 1 0 ∧
    Loads (.movWqLoadGbr d8) s ((s.readSpecial .gbr + BitVec.ofNat s.W (q * d8.toNat)).setWidth 64) q 0 ∧
    Loads (.movLLoadGbr d8) s ((s.readSpecial .gbr + BitVec.ofNat s.W (4 * d8.toNat)).setWidth 64) 4 0

/-- The post-increment loads: the value, and the address register past the operand unless it is the destination; where the access
misses, nothing is written (45 R370 to R372). The spec infers these rows from the stores (log 30). The address that `AddressError`
carries is log 38. -/
def Obligations.PostIncrementLoads : Prop :=
  ∀ (s : State) (m n : Reg),
    Pops (.movBPop m n) s m n 1 ∧ Pops (.movWqPop m n) s m n (if s.dq then 8 else 2) ∧ Pops (.movLPop m n) s m n 4

/-- The stores of the source's own rows: `@(R0,Rn)`, `@Rn`, the two pre-decrement forms of its comment, and the Word form that
takes the place of a displacement of 0. Their words; where the access can be made the low bytes stand at the address in the local
byte order, the pre-decrement forms leave the register at the stored value, and nothing else changes; where it misses,
`AddressError` and nothing is written (40 R212 to R214, 41 R251 to R253, R256, R257, 46 R388). The checks beside alignment rest on
92 D18. The address that `AddressError` carries is log 38. -/
def Obligations.PlainStores : Prop :=
  ∀ (s : State) (m n : Reg), Memory.wf s.mem →
    (decodeWord (word4 0x0 n m 0x4) = .movBStoreIdx m n ∧ decodeWord (word4 0x0 n m 0x5) = .movWqStoreIdx m n ∧
      decodeWord (word4 0x0 n m 0x6) = .movLStoreIdx m n ∧ decodeWord (word4 0x2 n m 0x0) = .movBStore m n ∧
      decodeWord (word4 0x2 n m 0x1) = .movWqStore m n ∧ decodeWord (word4 0x2 n m 0x2) = .movLStore m n ∧
      decodeWord (word4 0x2 n m 0x5) = .movWqPush m n ∧ decodeWord (word4 0x2 n m 0x6) = .movLPush m n ∧
      decodeWord (word4 0x8 0x1 n 0x0) = .movWStoreR0 n) ∧
    Stores (.movBStoreIdx m n) s ((s.x 0 + s.x n).setWidth 64) 1 (s.xNat m) ∧
    Stores (.movWqStoreIdx m n) s ((s.x 0 + s.x n).setWidth 64) (if s.dq then 8 else 2) (s.xNat m) ∧
    Stores (.movLStoreIdx m n) s ((s.x 0 + s.x n).setWidth 64) 4 (s.xNat m) ∧
    Stores (.movBStore m n) s ((s.x n).setWidth 64) 1 (s.xNat m) ∧
    Stores (.movWqStore m n) s ((s.x n).setWidth 64) (if s.dq then 8 else 2) (s.xNat m) ∧
    Stores (.movLStore m n) s ((s.x n).setWidth 64) 4 (s.xNat m) ∧
    Pushes (.movWqPush m n) s n (if s.dq then 8 else 2) (s.xNat m) ∧
    Pushes (.movLPush m n) s n 4 (s.xNat m) ∧
    Stores (.movWStoreR0 n) s ((s.x n).setWidth 64) 2 (s.xNat 0)

/-- The other stores: `MOVCA.L`, `@(Rn,disp)`, `@(GBR,disp)` with the displacement counted in operands, and `MOV.B @-Rn`; as in the
statement before (40 R211, 41 R250, R255, 46 R386, R387, 47 R407 to R409, from the SH family, log 30). The address that
`AddressError` carries is log 38. -/
def Obligations.OtherStores : Prop :=
  ∀ (s : State) (m n : Reg) (d4 : BitVec 4) (d8 : BitVec 8) (q : Nat), Memory.wf s.mem → q = (if s.dq then 8 else 2) →
    Stores (.movcaL n) s ((s.x n).setWidth 64) 4 (s.xNat 0) ∧
    Stores (.movLStoreDisp m n d4) s ((s.x n + BitVec.ofNat s.W (4 * d4.toNat)).setWidth 64) 4 (s.xNat m) ∧
    Pushes (.movBPush m n) s n 1 (s.xNat m) ∧
    Stores (.movBStoreR0Disp n d4) s ((s.x n + BitVec.ofNat s.W d4.toNat).setWidth 64) 1 (s.xNat 0) ∧
    Stores (.movWqStoreR0Disp n d4) s ((s.x n + BitVec.ofNat s.W (q * d4.toNat)).setWidth 64) q (s.xNat 0) ∧
    Stores (.movBStoreGbr d8) s ((s.readSpecial .gbr + BitVec.ofNat s.W d8.toNat).setWidth 64) 1 (s.xNat 0) ∧
    Stores (.movWqStoreGbr d8) s ((s.readSpecial .gbr + BitVec.ofNat s.W (q * d8.toNat)).setWidth 64) q (s.xNat 0) ∧
    Stores (.movLStoreGbr d8) s ((s.readSpecial .gbr + BitVec.ofNat s.W (4 * d8.toNat)).setWidth 64) 4 (s.xNat 0)

/-- The byte instructions: `TAS.B` at `@Rm` sets `T` for a zero byte and sets its top bit; at `GBR + R0`, `TST.B` sets `T` when no
bit is common with the immediate and stores nothing, and `AND.B`, `XOR.B`, `OR.B` replace the byte; where the byte misses,
`AddressError` (44 R347, 47 R419 to R422, from the SH family, log 30). The address that `AddressError` carries is log 38. -/
def Obligations.ByteInstructions : Prop :=
  ∀ (s : State) (m : Reg) (imm : BitVec 8) (e g : BitVec 64), Memory.wf s.mem →
    e = s.ea ((s.x m).setWidth 64) → g = s.ea ((s.readSpecial .gbr + s.x 0).setWidth 64) →
    (s.Writes e 1 1 → Completes (.tasB m) s { srBits := [0], stored := [(e, 1)] } (fun t =>
      (t.t = true ↔ Memory.read s.mem e.toNat = 0) ∧ Memory.read t.mem e.toNat = Memory.read s.mem e.toNat ||| 0x80)) ∧
    (s.Reads g 1 1 → SetsT (.tstB imm) s (Memory.read s.mem g.toNat &&& imm = 0)) ∧
    (s.Writes g 1 1 →
      Completes (.andB imm) s { stored := [(g, 1)] } (fun t => Memory.read t.mem g.toNat = Memory.read s.mem g.toNat &&& imm) ∧
      Completes (.xorB imm) s { stored := [(g, 1)] } (fun t => Memory.read t.mem g.toNat = Memory.read s.mem g.toNat ^^^ imm) ∧
      Completes (.orB imm) s { stored := [(g, 1)] } (fun t => Memory.read t.mem g.toNat = Memory.read s.mem g.toNat ||| imm)) ∧
    (s.Misses e 1 1 → Traps (.tasB m) s (.addressError e .read)) ∧
    (s.Misses g 1 1 → ∀ i ∈ [Instr.tstB imm, .andB imm, .xorB imm, .orB imm], Traps i s (.addressError g .read))

/-- `CAS.L` at `@R0`, by the roles of the parameter: if the compared register matches the DWord, the other register's low 32 bits
are stored and `T` is set; else nothing is stored and `T` is cleared; `Rn` receives the old DWord, sign-extended; where the DWord
misses, `AddressError` (41 R254; the roles are log 14). Which register a number names where `BankSel` tests a bit that the
instruction writes is log 24. The address that `AddressError` carries is log 38. -/
def Obligations.CompareAndSwap : Prop :=
  ∀ (s : State) (m n c v : Reg) (e : BitVec 64), Memory.wf s.mem → e = s.ea ((s.x 0).setWidth 64) →
    ((s.params.casRoles = .compareRm ∧ c = m ∧ v = n) ∨ (s.params.casRoles = .compareRn ∧ c = n ∧ v = m)) →
    (s.Writes e 4 4 → s.xNat c % 2 ^ 32 = (s.valueAt s.localOrder e 4).toNat →
      Completes (.casL m n) s { regs := [n], srBits := [0], stored := [(e, 4)] } (fun t => t.t = true ∧
        (t.valueAt s.localOrder e 4).toNat = s.xNat v % 2 ^ 32 ∧ s.xIntIn t n = (s.valueAt s.localOrder e 4).toInt)) ∧
    (s.Reads e 4 4 → s.xNat c % 2 ^ 32 ≠ (s.valueAt s.localOrder e 4).toNat →
      Completes (.casL m n) s { regs := [n], srBits := [0] } (fun t => t.t = false ∧
        s.xIntIn t n = (s.valueAt s.localOrder e 4).toInt)) ∧
    (s.Misses e 4 4 → Traps (.casL m n) s (.addressError e .read))

/-- The PC-relative operations outside a delay slot: `MOVA` gives the address of the literal; `MOV.L/Q` loads it in the machine
byte order, at 64 bits as two DWords at ascending addresses (20 R102, R104, 47 R414, R423; the second DWord's address is log 19).
The address that `AddressError` carries is log 38. -/
def Obligations.PcRelative : Prop :=
  ∀ (s : State) (n : Reg) (d : BitVec 8) (e f : BitVec 64), s.slot = none → e = s.literal d → f = s.ea (e + 4) →
    Yields (.mova d) s 0 (e.toNat % 2 ^ s.W) ∧
    (s.wide = false → s.Reads e 4 4 → YieldsInt (.movLqLoadPc d n) s n (s.valueAt s.machineOrder e 4).toInt) ∧
    (s.wide = true → s.Reads e 4 4 → s.Reads f 4 4 →
      Yields (.movLqLoadPc d n) s n (
        if s.me then (s.valueAt s.machineOrder f 4).toNat * 2 ^ 32 + (s.valueAt s.machineOrder e 4).toNat
        else (s.valueAt s.machineOrder e 4).toNat * 2 ^ 32 + (s.valueAt s.machineOrder f 4).toNat)) ∧
    (s.Misses e 4 4 → Traps (.movLqLoadPc d n) s (.addressError e .read)) ∧
    (s.wide = true → s.Reads e 4 4 → s.Misses f 4 4 → Traps (.movLqLoadPc d n) s (.addressError f .read))

/-! System and control registers. -/

/-- `STC` and `STS` to a register: their words; the low `W` bits of the special register; nothing else changes. The privileged
ones complete where the mode may run them (40 R201 to R206, R228 to R230). The privileged set rests on 92 D6 (log 24). -/
def Obligations.CopiesToGeneral : Prop :=
  ∀ (s : State) (n : Reg),
    (decodeWord (word4 0x0 n 0x0 0x2) = .stcSr n ∧ decodeWord (word4 0x0 n 0x1 0x2) = .stcGbr n ∧
      decodeWord (word4 0x0 n 0x2 0x2) = .stcVbr n ∧ decodeWord (word4 0x0 n 0x3 0x2) = .stcSsr n ∧
      decodeWord (word4 0x0 n 0x4 0x2) = .stcSpc n ∧ decodeWord (word4 0x0 n 0x5 0x2) = .stcDbr n ∧
      decodeWord (word4 0x0 n 0x0 0xA) = .stsMach n ∧ decodeWord (word4 0x0 n 0x1 0xA) = .stsMacl n ∧
      decodeWord (word4 0x0 n 0x2 0xA) = .stsPr n) ∧
    (∀ p ∈ [(Instr.stcSr n, s.sr), (.stcVbr n, s.vbr), (.stcSsr n, s.ssr), (.stcSpc n, s.spc), (.stcDbr n, s.dbr)],
      (s.mayRun p.1 = true → Yields p.1 s n (p.2.toNat % 2 ^ s.W)) ∧ (s.mayRun p.1 = false → Traps p.1 s .illegalInstruction)) ∧
    Yields (.stcGbr n) s n (s.gbr.toNat % 2 ^ s.W) ∧ Yields (.stsMach n) s n (s.mach.toNat % 2 ^ s.W) ∧
    Yields (.stsMacl n) s n (s.macl.toNat % 2 ^ s.W) ∧ Yields (.stsPr n) s n (s.pr.toNat % 2 ^ s.W)

/-- `LDC` and `LDS` from a register, the moves of `FPUL` and `FPSCR`, and the moves of the inactive bank: the value at the width of
the registers; nothing else changes. The privileged ones complete where the mode may run them, those of the FPU registers with the
FPU enabled (40 R207, R231, R232, 44 R341 to R345, R352 to R357, from the SH family, log 30). That a write of `VBR` counts as one,
at either width, is log 4 (60 R513). -/
def Obligations.CopiesFromGeneral : Prop :=
  ∀ (s : State) (m n : Reg) (b : BankReg),
    Puts (.ldcGbr m) s .gbr (s.xNat m) ∧ Puts (.ldsMach m) s .mach (s.xNat m) ∧ Puts (.ldsMacl m) s .macl (s.xNat m) ∧
    Puts (.ldsPr m) s .pr (s.xNat m) ∧
    (s.fd = false → Puts (.ldsFpul m) s .fpul (s.xNat m) ∧ Puts (.ldsFpscr m) s .fpscr (s.xNat m) ∧
      Yields (.stsFpul n) s n (s.spNat .fpul) ∧ Yields (.stsFpscr n) s n (s.spNat .fpscr)) ∧
    (∀ p ∈ [(Instr.ldcVbr m, Special.vbr), (.ldcSsr m, .ssr), (.ldcSpc m, .spc), (.ldcDbr m, .dbr)],
      s.mayRun p.1 = true → Puts p.1 s p.2 (s.xNat m)) ∧
    (s.mayRun (.stcBank b n) = true → Yields (.stcBank b n) s n (s.otherNat b)) ∧
    (s.mayRun (.ldcBank m b) = true → Completes (.ldcBank m b) s { others := [b] } (fun t => t.otherNat b = s.xNat m))

/-- `LDC Rm, SR` and `LDC.L/Q @Rm+, SR` where the mode may run them: `SR` at the width of the registers, read before; the load's
register moves through the bank in force before; the address of the next instruction is normalised under the new `SR`; an FPU
register loses the half that a change of `SR.AQ` leaves open; nothing else changes; where the load misses, `AddressError` (43 R323,
44 R351, 10 R58, log 16, log 20). The address that `AddressError` carries is log 38. -/
def Obligations.StatusLoads : Prop :=
  ∀ (s : State) (m : Reg) (e : BitVec 64), e = s.ea ((s.x m).setWidth 64) →
    (s.mayRun (.ldcSr m) = true → ∃ t, exec (.ldcSr m) s = .next t ∧ StatusFrame s t ∧ Wrote s .sr (s.xNat m) t ∧ t.slot = none ∧
      (s.slot = none → t.pc = t.ea (s.pc + 2)) ∧ ∀ sl, s.slot = some sl → t.pc = t.ea sl.target) ∧
    (s.mayRun (.ldcSrPop m) = true → s.Reads e s.szLQ s.szLQ → ∃ u t, Frame { regs := [m] } s u ∧
      u.xNat m = (s.xNat m + s.szLQ) % 2 ^ s.W ∧
      exec (.ldcSrPop m) s = .next t ∧ StatusFrame u t ∧ Wrote s .sr (s.valueAt s.localOrder e s.szLQ).toNat t ∧
      t.slot = none ∧ (s.slot = none → t.pc = t.ea (s.pc + 2)) ∧ ∀ sl, s.slot = some sl → t.pc = t.ea sl.target) ∧
    (s.mayRun (.ldcSrPop m) = true → s.Misses e s.szLQ s.szLQ → Traps (.ldcSrPop m) s (.addressError e .read))

/-- `STC.L/Q` and `STS.L/Q` at `@-Rn`, of every register and of the inactive bank: the low `W` bits below the register, which then
points at them; nothing else changes; where the store misses, nothing is written (43 R296 to R307, from the SH family, log 30). The
address that `AddressError` carries is log 38. -/
def Obligations.SpecialPushes : Prop :=
  ∀ (s : State) (n : Reg) (b : BankReg), Memory.wf s.mem →
    Pushes (.stsMachPush n) s n s.szLQ (s.spNat .mach) ∧ Pushes (.stsMaclPush n) s n s.szLQ (s.spNat .macl) ∧
    Pushes (.stsPrPush n) s n s.szLQ (s.spNat .pr) ∧ Pushes (.stcGbrPush n) s n s.szLQ (s.spNat .gbr) ∧
    (s.fd = false → Pushes (.stsFpulPush n) s n s.szLQ (s.spNat .fpul) ∧
      Pushes (.stsFpscrPush n) s n s.szLQ (s.spNat .fpscr)) ∧
    (∀ p ∈ [(Instr.stcSrPush n, s.spNat .sr), (.stcVbrPush n, s.spNat .vbr), (.stcSsrPush n, s.spNat .ssr),
        (.stcSpcPush n, s.spNat .spc), (.stcDbrPush n, s.spNat .dbr), (.stcBankPush b n, s.otherNat b)],
      s.mayRun p.1 = true → Pushes p.1 s n s.szLQ p.2)

/-- `LDC.L/Q` and `LDS.L/Q` at `@Rm+`, of every register but `SR` and of the inactive bank: the loaded value at the width of the
registers, and the address register past it; nothing else changes; where the load misses, nothing is written (43 R318 to R329, from
the SH family, log 30). That a write of `VBR` counts as one, at either width, is log 4 (60 R513). The address that `AddressError`
carries is log 38. -/
def Obligations.SpecialPops : Prop :=
  ∀ (s : State) (m : Reg) (b : BankReg) (e : BitVec 64), e = s.ea ((s.x m).setWidth 64) →
    PopsTo (.ldsMachPop m) s m .mach ∧ PopsTo (.ldsMaclPop m) s m .macl ∧ PopsTo (.ldsPrPop m) s m .pr ∧
    PopsTo (.ldcGbrPop m) s m .gbr ∧
    (s.fd = false → PopsTo (.ldsFpulPop m) s m .fpul ∧ PopsTo (.ldsFpscrPop m) s m .fpscr) ∧
    (∀ p ∈ [(Instr.ldcVbrPop m, Special.vbr), (.ldcSsrPop m, .ssr), (.ldcSpcPop m, .spc), (.ldcDbrPop m, .dbr)],
      s.mayRun p.1 = true → PopsTo p.1 s m p.2) ∧
    (s.mayRun (.ldcBankPop m b) = true →
      (s.Reads e s.szLQ s.szLQ → Completes (.ldcBankPop m b) s { regs := [m], others := [b] } (fun t =>
        t.otherNat b = (s.valueAt s.localOrder e s.szLQ).toNat ∧ t.xNat m = (s.xNat m + s.szLQ) % 2 ^ s.W)) ∧
      (s.Misses e s.szLQ s.szLQ → Traps (.ldcBankPop m b) s (.addressError e .read)))

/-! Branches. -/

/-- The branches of one word but `RTE` (ReturnFromException has it, FatLoads the fat ones) outside a delay slot. `BT` and `BF` go
to the label or past the instruction at once. The delayed branches leave the next instruction as the delay slot with the target
pending: the label, the instruction after the slot for a conditional branch not taken, the program counter plus 4 plus a register,
a register, or `PR`; the calls save the address after the slot in `PR`; nothing else changes (40 R208, R209, R233, 44 R346, R348,
46 R393 to R397, 47 R405, R406, 70 R570 to R573, from the SH family, log 30; the branch's address in the latch is log 12, when the
target is normalised log 37). -/
def Obligations.BranchInstructions : Prop :=
  ∀ (s : State) (m : Reg) (d8 : BitVec 8) (d12 : BitVec 12), s.slot = none →
    (∃ t, exec (.bt d8) s = .next t ∧ Frame {} s t ∧ t.slot = none ∧ t.pc = if s.t then s.label d8 else s.ea (s.pc + 2)) ∧
    (∃ t, exec (.bf d8) s = .next t ∧ Frame {} s t ∧ t.slot = none ∧ t.pc = if s.t then s.ea (s.pc + 2) else s.label d8) ∧
    Branches (.bts d8) s {} (if s.t then s.label d8 else s.ea (s.pc + 4)) 2 (fun t => t.sr = s.sr) ∧
    Branches (.bfs d8) s {} (if s.t then s.ea (s.pc + 4) else s.label d8) 2 (fun t => t.sr = s.sr) ∧
    Branches (.bra d12) s {} (s.label d12) 2 (fun t => t.pr = s.pr) ∧
    Branches (.bsr d12) s { specials := [.pr] } (s.label d12) 2 (Wrote s .pr (s.ea (s.pc + 4)).toNat) ∧
    Branches (.bsaf m) s {} (s.ea (BitVec.ofNat 64 (s.pc.toNat + 4 + s.xNat m))) 2 (fun t => t.pr = s.pr) ∧
    Branches (.bsrf m) s { specials := [.pr] } (s.ea (BitVec.ofNat 64 (s.pc.toNat + 4 + s.xNat m))) 2
      (Wrote s .pr (s.ea (s.pc + 4)).toNat) ∧
    Branches (.jmp m) s {} (s.ea (BitVec.ofNat 64 (s.xNat m))) 2 (fun t => t.pr = s.pr) ∧
    Branches (.jsr m) s { specials := [.pr] } (s.ea (BitVec.ofNat 64 (s.xNat m))) 2 (Wrote s .pr (s.ea (s.pc + 4)).toNat) ∧
    Branches .rts s {} (s.ea (BitVec.ofNat 64 (s.spNat .pr))) 2 (fun t => t.pr = s.pr)

/-- The fat loads on a machine that has them, outside a delay slot: the signed immediate, or a delayed branch with its slot 6 bytes
on; the call saves the address after the slot in `PR` (49 R472 to R476, decided there; log 7). It rests on decisions and inferences
of the spec (92 D26). The branch's address in the latch is log 12 (60 R512), when the target is normalised log 37. -/
def Obligations.FatLoads : Prop :=
  ∀ (s : State) (n : Reg) (i24 : BitVec 24) (i40 : BitVec 40) (i56 : BitVec 56) (d : BitVec 28), s.slot = none →
    s.params.hasFatLoad = true →
    CompletesAfter 6 (.ldfatMov24 i24 n) s { regs := [n] } (fun t => t.xInt n = i24.toInt) ∧
    CompletesAfter 8 (.ldfatMov40 i40 n) s { regs := [n] } (fun t => t.xInt n = Int.bmod i40.toInt (2 ^ s.W)) ∧
    CompletesAfter 10 (.ldfatMov56 i56 n) s { regs := [n] } (fun t => t.xInt n = Int.bmod i56.toInt (2 ^ s.W)) ∧
    Branches (.ldfatBra d) s {} (s.label d) 6 (fun t => t.pr = s.pr) ∧
    Branches (.ldfatBsr d) s { specials := [.pr] } (s.label d) 6 (Wrote s .pr (s.ea (s.pc + 8)).toNat)

/-! The FPU. -/

/-- The FPU calculations in every calculation mode: the result of the operation of 48 R431 in the destination's registers, `T` for
a comparison; nothing else changes. The operations are those of the parameter of log 17, so the statement holds whatever they
compute (48 R430 to R437, R447, R448, R451, R454, R455, R457). -/
def Obligations.FpuCalculations : Prop :=
  ∀ (s : State) (md : FpMode) (m n : FReg), s.FpuReady md → md.takes m → md.takes n →
    (∀ p ∈ [(Instr.fadd m n, s.fpAdd md.format), (.fsub m n, s.fpSub md.format), (.fmul m n, s.fpMul md.format),
        (.fdiv m n, s.fpDiv md.format)],
      Completes p.1 s { fregs := s.fpRegs md n } (fun t => t.fv md n = p.2 s.rm s.dn (s.fv md n) (s.fv md m))) ∧
    SetsT (.fcmpeq m n) s (s.fpEq md.format s.dn (s.fv md n) (s.fv md m) = true) ∧
    SetsT (.fcmpgt m n) s (s.fpGt md.format s.dn (s.fv md n) (s.fv md m) = true) ∧
    Completes (.fsqrt n) s { fregs := s.fpRegs md n } (fun t => t.fv md n = s.fpSqrt md.format s.rm s.dn (s.fv md n)) ∧
    (md ≠ .split → Completes (.fmac m n) s { fregs := s.fpRegs md n } (fun t =>
      t.fv md n = s.fpMac md.format s.rm s.dn (s.fv md 0) (s.fv md m) (s.fv md n))) ∧
    (∀ k : Int, (s.fpulInt = .w32 → k = Int.bmod s.fpul.toNat (2 ^ 32)) → (s.fpulInt = .w64 → k = s.fpul.toInt) →
      Completes (.float n) s { fregs := s.fpRegs md n } (fun t => t.fv md n = s.fpFloat md.format s.rm k)) ∧
    Completes (.ftrc m) s { specials := [.fpul] } (fun t => ∀ k < 64, t.fpul.getLsbD k =
      if s.fpulInt = .w32 ∧ 32 ≤ k then s.fpul.getLsbD k
      else (BitVec.ofInt 64 (s.fpTrc md.format s.fpulInt.bits (s.fv md m))).getLsbD k) ∧
    (md = .split ∨ md = .double → ∃ (widen : BitVec 32 → BitVec md.format.width) (narrow : BitVec md.format.width → BitVec 32),
      (∀ a, (widen a).toNat = (s.fpCnvsd s.dn a).toNat) ∧ (∀ a, narrow a = s.fpCnvds s.rm s.dn (a.setWidth 64)) ∧
      Completes (.fcnvsd n) s { fregs := s.fpRegs md n } (fun t => t.fv md n = widen (s.fpul.setWidth 32)) ∧
      Completes (.fcnvds m) s { specials := [.fpul] } (fun t =>
        t.fpul = s.fpul.extractLsb' 32 32 ++ narrow (s.fv md m)))

/-- The intended instance of the floating-point functions, in both rounding modes: the comparisons order finite numbers by value;
a sum or a product that the format holds is exact; an integer that the fraction holds comes back from its number; a single comes
back from its double. The instance is IEEE 754, which the spec takes from general knowledge (48 R431, log 17). -/
def Obligations.FpuNumerics : Prop :=
  ∀ (s : State) (f : FpFormat) (rm : BitVec 2), s.params.numerics = .ieee → rm = 0 ∨ rm = 1 →
    (∀ (dn : Bool) (a b : BitVec f.width) (u v : Bool) (x y : Nat), unpack f dn a = .finite u x → unpack f dn b = .finite v y →
      (s.fpEq f dn a b = true ↔ signedUnits u x = signedUnits v y) ∧
      (s.fpGt f dn a b = true ↔ signedUnits v y < signedUnits u x)) ∧
    (∀ (a b c : BitVec f.width) (u v w : Bool) (x y z : Nat), unpack f false a = .finite u x → unpack f false b = .finite v y →
      unpack f false c = .finite w z → z ≠ 0 →
      (signedUnits w z = signedUnits u x + signedUnits v y → s.fpAdd f rm false a b = c) ∧
      (signedUnits w z * unitsOfOne f = signedUnits u x * signedUnits v y → s.fpMul f rm false a b = c)) ∧
    (∀ (k : Int) (bits : Nat), k.natAbs < 2 ^ (fractionBits f + 1) → -2 ^ (bits - 1) ≤ k → k < 2 ^ (bits - 1) →
      s.fpTrc f bits (s.fpFloat f rm k) = k) ∧
    (∀ (a : BitVec 32) (u : Bool) (x : Nat), unpack .single false a = .finite u x →
      s.fpCnvds rm false (s.fpCnvsd false a) = a)

/-- `FNEG`, `FABS` and the constants: the sign bit of the operand and no other bit of its registers; the bit patterns of 0 and 1
in single and in double precision; nothing else changes (48 R449, R450, R452, R453, from the SH family, log 30). That bits 63:32
stay at `SR.AQ` = 0 is the model's inference from these rules, log 23. -/
def Obligations.FpuSignsAndConstants : Prop :=
  ∀ (s : State) (md : FpMode) (n : FReg), s.FpuReady md → md.takes n →
    Completes (.fneg n) s { fregs := s.fpRegs md n } (fun t =>
      (∀ k < md.format.width, (t.fv md n).getLsbD k = (if k + 1 = md.format.width then !(s.fv md n).getLsbD k
        else (s.fv md n).getLsbD k)) ∧ (md ≠ .double → ∀ i, (t.freg i).hi = (s.freg i).hi)) ∧
    Completes (.fabs n) s { fregs := s.fpRegs md n } (fun t =>
      (∀ k < md.format.width, (t.fv md n).getLsbD k = (if k + 1 = md.format.width then false else (s.fv md n).getLsbD k)) ∧
      (md ≠ .double → ∀ i, (t.freg i).hi = (s.freg i).hi)) ∧
    (md = .single →
      Completes (.fldi0 n) s { fregs := [n] } (fun t => t.f32 n = 0 ∧ (t.freg n).hi = (s.freg n).hi) ∧
      Completes (.fldi1 n) s { fregs := [n] } (fun t => t.f32 n = 0x3F800000 ∧ (t.freg n).hi = (s.freg n).hi)) ∧
    (md = .double →
      Completes (.fldi0 n) s { fregs := [n] } (fun t => t.f64 n = 0) ∧
      Completes (.fldi1 n) s { fregs := [n] } (fun t => t.f64 n = 0x3FF0000000000000))

/-- The moves between FPU registers and `FPUL`, and `FSCHG`: with `SR.AQ` = 1 whole registers; with `SR.AQ` = 0 bits 31:0, of one
register or of a pair; `FSTS` and `FLDS` by the width of the parameter at `SR.AQ` = 1; `FSCHG` flips `FPSCR.SZ` alone (48 R444 to
R446, R456, R459, from the SH family, log 30; the widths are log 10; that bits 63:32 of a register stay at `SR.AQ` = 0 is the
model's inference, log 23). -/
def Obligations.FpuMoves : Prop :=
  ∀ (s : State) (m n : FReg), s.fd = false → s.fpBank = false →
    (s.aq = true → Completes (.fmov m n) s { fregs := [n] } (fun t => t.freg n = s.freg m)) ∧
    (s.aq = false → s.fpSize = false → Completes (.fmov m n) s { fregs := [n] } (fun t =>
      t.f32 n = s.f32 m ∧ (t.freg n).hi = (s.freg n).hi)) ∧
    (s.aq = false → s.fpSize = true → m.getLsbD 0 = false → n.getLsbD 0 = false →
      Completes (.fmov m n) s { fregs := [n, n + 1] } (fun t => t.f32 n = s.f32 m ∧ t.f32 (n + 1) = s.f32 (m + 1) ∧
        ∀ i, (t.freg i).hi = (s.freg i).hi)) ∧
    Completes (.fsts n) s { fregs := [n] } (fun t =>
      t.f32 n = s.fpul.setWidth 32 ∧ (s.aq = false → (t.freg n).hi = (s.freg n).hi) ∧
      (s.aq = true → s.params.fpulMoveBits = .w64 → t.f64 n = s.fpul)) ∧
    Completes (.flds m) s { specials := [.fpul] } (fun t =>
      t.fpul = if s.aq = true ∧ s.params.fpulMoveBits = .w64 then s.f64 m else s.fpul.extractLsb' 32 32 ++ s.f32 m) ∧
    Completes .fschg s { specials := [.fpscr] } (fun t =>
      ∀ k, t.fpscr.getLsbD k = if k = 20 then !s.fpscr.getLsbD 20 else s.fpscr.getLsbD k)

/-- `FMOV.S` to and from memory, where the access can be made: 4 bytes, two DWords of a pair, or 8 bytes, in the local byte order;
the address register of the increment and decrement forms moves by as many bytes; nothing else changes; where the access misses,
nothing is written (48 R438 to R443, R458, from the SH family, log 30). That bits 63:32 of a loaded register stay at `SR.AQ` = 0 is
the model's inference, log 23; that the two halves of a pair are checked as one access of 8 bytes is log 35. The address that
`AddressError` carries is log 38. -/
def Obligations.FpuMemoryMoves : Prop :=
  ∀ (s : State) (f : FReg) (r : Reg) (e x b : BitVec 64) (k : Nat), Memory.wf s.mem → s.FpMoves f → k = s.fpBytes →
    e = s.ea ((s.x r).setWidth 64) → x = s.ea ((s.x 0 + s.x r).setWidth 64) → b = s.ea (s.below r k) →
    (s.Reads e k k →
      Completes (.fmovLoad r f) s { fregs := s.fpMoved f } (s.FpLoaded e f) ∧
      Completes (.fmovPop r f) s { regs := [r], fregs := s.fpMoved f } (fun t =>
        s.FpLoaded e f t ∧ t.xNat r = (s.xNat r + k) % 2 ^ s.W)) ∧
    (s.Reads x k k → Completes (.fmovLoadIdx r f) s { fregs := s.fpMoved f } (s.FpLoaded x f)) ∧
    (s.Writes e k k → Completes (.fmovStore f r) s { stored := s.fpRanges e } (s.FpStored e f)) ∧
    (s.Writes x k k → Completes (.fmovStoreIdx f r) s { stored := s.fpRanges x } (s.FpStored x f)) ∧
    (s.Writes b k k → Completes (.fmovPush f r) s { regs := [r], stored := s.fpRanges b } (fun t =>
      s.FpStored b f t ∧ (t.xNat r : Int) = ((s.xNat r : Int) - k) % 2 ^ s.W)) ∧
    (s.Misses e k k → Traps (.fmovLoad r f) s (.addressError e .read) ∧ Traps (.fmovPop r f) s (.addressError e .read) ∧
      Traps (.fmovStore f r) s (.addressError e .write)) ∧
    (s.Misses x k k → Traps (.fmovLoadIdx r f) s (.addressError x .read) ∧
      Traps (.fmovStoreIdx f r) s (.addressError x .write)) ∧
    (s.Misses b k k → Traps (.fmovPush f r) s (.addressError b .write))
end

