-- ==== Sys2Proof/Laws/Decode.lean ====
section
/-!
SUPPORT. Laws of the nibbles of an instruction word and of the decoder's cases.
-/

namespace Sys2Proof

theorem toNat_word4 (a b c d : Nibble) : (word4 a b c d).toNat = ((a.toNat * 16 + b.toNat) * 16 + c.toNat) * 16 + d.toNat := by
  have ha := a.isLt
  have hb := b.isLt
  have hc := c.isLt
  have hd := d.isLt
  simp only [word4, BitVec.toNat_append, Nat.shiftLeft_eq]
  rw [Nat.mul_comm _ (2 ^ 4), ← Nat.two_pow_add_eq_or_of_lt hd, Nat.mul_comm _ (2 ^ 4), ← Nat.two_pow_add_eq_or_of_lt hc,
    Nat.mul_comm _ (2 ^ 4), ← Nat.two_pow_add_eq_or_of_lt hb]
  omega

theorem toNat_nibble (w : InstrWord) (k : Nat) : (w.extractLsb' k 4).toNat = w.toNat / 2 ^ k % 16 := by
  rw [BitVec.extractLsb'_toNat, Nat.shiftRight_eq_div_pow]

@[simp] theorem nibble3_word4 (a b c d : Nibble) : nibble3 (word4 a b c d) = a := by
  apply BitVec.eq_of_toNat_eq
  have ha := a.isLt
  have hb := b.isLt
  have hc := c.isLt
  have hd := d.isLt
  rw [nibble3, toNat_nibble, toNat_word4]
  omega

@[simp] theorem nibble2_word4 (a b c d : Nibble) : nibble2 (word4 a b c d) = b := by
  apply BitVec.eq_of_toNat_eq
  have ha := a.isLt
  have hb := b.isLt
  have hc := c.isLt
  have hd := d.isLt
  rw [nibble2, toNat_nibble, toNat_word4]
  omega

@[simp] theorem nibble1_word4 (a b c d : Nibble) : nibble1 (word4 a b c d) = c := by
  apply BitVec.eq_of_toNat_eq
  have ha := a.isLt
  have hb := b.isLt
  have hc := c.isLt
  have hd := d.isLt
  rw [nibble1, toNat_nibble, toNat_word4]
  omega

@[simp] theorem nibble0_word4 (a b c d : Nibble) : nibble0 (word4 a b c d) = d := by
  apply BitVec.eq_of_toNat_eq
  have ha := a.isLt
  have hb := b.isLt
  have hc := c.isLt
  have hd := d.isLt
  rw [nibble0, toNat_nibble, toNat_word4]
  omega

/-- A word is made of its nibbles. -/
theorem word4_nibbles (w : InstrWord) : word4 (nibble3 w) (nibble2 w) (nibble1 w) (nibble0 w) = w := by
  apply BitVec.eq_of_toNat_eq
  have hw := w.isLt
  rw [toNat_word4, nibble3, nibble2, nibble1, nibble0, toNat_nibble, toNat_nibble, toNat_nibble, toNat_nibble]
  omega

/-- Decoding a word given by its nibbles. -/
theorem decodeWord_word4 (a b c d : Nibble) :
    decodeWord (word4 a b c d) = (decodeGroup a b c d).getD (emptyWord (word4 a b c d)) := by
  simp [decodeWord]

theorem decode_of_prefixL (odd : Bool) (rest : List InstrWord) : decode odd (0x008B#16 :: rest) = decodeFatL rest := rfl

theorem decode_of_prefixQ (odd : Bool) (rest : List InstrWord) : decode odd (0x009B#16 :: rest) = decodeFatQ odd rest := by
  simp [decode]

/-- A word that is no fat-load prefix is an instruction by itself. -/
theorem decode_of_plain (odd : Bool) {w : InstrWord} (h1 : w ≠ 0x008B#16) (h2 : w ≠ 0x009B#16) (rest : List InstrWord) :
    decode odd (w :: rest) = .ok (decodeWord w, rest) := by
  simp [decode, h1, h2]

end Sys2Proof
end

