-- ==== Sys2Proof/Laws/Memory.lean ====
section
/-!
SUPPORT. Laws of memory (a read after a write, the other addresses, the canonical form), of the byte orders, and of the tags of
executed code.
-/

namespace Sys2Proof.Machine

/-! Memory. -/

theorem Memory.wf_nil : Memory.wf [] := ⟨List.Pairwise.nil, by simp⟩

theorem Memory.wf_tail {c : Host.Cell} {m : List Host.Cell} (h : Memory.wf (c :: m)) : Memory.wf m :=
  ⟨h.1.of_cons, fun d hd => h.2 d (List.mem_cons_of_mem _ hd)⟩

/-- An address below every listed one is unlisted. -/
theorem Memory.read_of_lt {m : List Host.Cell} {a : Nat} (h : ∀ c ∈ m, a < c.1) : Memory.read m a = Memory.initial a := by
  induction m with
  | nil => rfl
  | cons c m ih =>
    obtain ⟨x, b⟩ := c
    have hx : a < x := h (x, b) (by simp)
    simp only [Memory.read, if_neg (by omega : ¬ x = a)]
    exact ih fun d hd => h d (List.mem_cons_of_mem _ hd)

theorem Memory.head_lt {c : Host.Cell} {m : List Host.Cell} (h : Memory.wf (c :: m)) : ∀ d ∈ m, c.1 < d.1 :=
  (List.pairwise_cons.1 h.1).1

theorem Memory.read_keep {m : List Host.Cell} {a x : Nat} {b : Byte} (h : ∀ c ∈ m, a < c.1) :
    Memory.read (Memory.keep a b m) x = if x = a then b else Memory.read m x := by
  unfold Memory.keep
  by_cases hb : b = Memory.initial a
  · rw [if_pos hb]
    by_cases hx : x = a
    · rw [if_pos hx, hx, Memory.read_of_lt h, hb]
    · rw [if_neg hx]
  · rw [if_neg hb]
    simp only [Memory.read, eq_comm]

theorem Memory.wf_keep {m : List Host.Cell} {a : Nat} {b : Byte} (hm : Memory.wf m) (h : ∀ c ∈ m, a < c.1) :
    Memory.wf (Memory.keep a b m) := by
  unfold Memory.keep
  by_cases hb : b = Memory.initial a
  · rw [if_pos hb]; exact hm
  · rw [if_neg hb]
    refine ⟨List.pairwise_cons.2 ⟨h, hm.1⟩, fun c hc => ?_⟩
    rcases List.mem_cons.1 hc with rfl | hc
    · exact hb
    · exact hm.2 c hc

/-- The cells of a memory after a write are old cells or the written one. -/
theorem Memory.write_mem {m : List Host.Cell} {a : Nat} {b : Byte} {d : Host.Cell} (h : d ∈ Memory.write m a b) :
    d ∈ m ∨ d = (a, b) := by
  induction m with
  | nil =>
    unfold Memory.write Memory.keep at h
    split at h <;> simp_all
  | cons c m ih =>
    obtain ⟨x, y⟩ := c
    unfold Memory.write Memory.keep at h
    split at h
    · split at h <;> simp_all; tauto
    · split at h
      · split at h <;> simp_all; tauto
      · rcases List.mem_cons.1 h with rfl | h
        · simp
        · rcases ih h with h | h <;> simp_all

/-- Writing a byte keeps the canonical form. -/
theorem Memory.wf_write {m : List Host.Cell} {a : Nat} {b : Byte} (hm : Memory.wf m) : Memory.wf (Memory.write m a b) := by
  induction m with
  | nil => exact Memory.wf_keep Memory.wf_nil (by simp)
  | cons c m ih =>
    obtain ⟨x, y⟩ := c
    have hlt := Memory.head_lt hm
    unfold Memory.write
    split
    · next h =>
      exact Memory.wf_keep hm fun d hd => by
        rcases List.mem_cons.1 hd with rfl | hd
        · exact h
        · exact lt_trans h (hlt d hd)
    · split
      · next h => exact Memory.wf_keep (Memory.wf_tail hm) fun d hd => h ▸ hlt d hd
      · have hw := ih (Memory.wf_tail hm)
        refine ⟨List.pairwise_cons.2 ⟨fun d hd => ?_, hw.1⟩, fun d hd => ?_⟩
        · rcases Memory.write_mem hd with hd | rfl
          · exact hlt d hd
          · show x < a; omega
        · rcases List.mem_cons.1 hd with rfl | hd
          · exact hm.2 _ (by simp)
          · exact hw.2 d hd

/-- A read after a write of one byte: the byte at its address, every other address as before. -/
theorem Memory.read_write {m : List Host.Cell} {a x : Nat} {b : Byte} (hm : Memory.wf m) :
    Memory.read (Memory.write m a b) x = if x = a then b else Memory.read m x := by
  induction m with
  | nil => exact Memory.read_keep (by simp)
  | cons c m ih =>
    obtain ⟨y, d⟩ := c
    have hlt := Memory.head_lt hm
    unfold Memory.write
    split
    · next h =>
      exact Memory.read_keep fun e he => by
        rcases List.mem_cons.1 he with rfl | he
        · exact h
        · exact lt_trans h (hlt e he)
    · split
      · next h =>
        rw [Memory.read_keep fun e he => h ▸ hlt e he]
        by_cases hx : x = a
        · rw [if_pos hx, if_pos hx]
        · simp only [if_neg hx, Memory.read, if_neg (fun hh : y = x => hx (by omega))]
      · next h1 h2 =>
        simp only [Memory.read, ih (Memory.wf_tail hm)]
        by_cases hx : x = a
        · rw [if_neg (by omega : ¬ y = x)]; simp [hx]
        · simp [hx]

/-- Writing bytes keeps the canonical form. -/
theorem Memory.wf_writeBytes {m : List Host.Cell} {a : Nat} {bs : List Byte} (hm : Memory.wf m) :
    Memory.wf (Memory.writeBytes m a bs) := by
  induction bs generalizing m a with
  | nil => exact hm
  | cons b bs ih => exact ih (Memory.wf_write hm)

/-- A read after a write of bytes: a written byte, or what stood at the address before. -/
theorem Memory.read_writeBytes {m : List Host.Cell} {a x : Nat} {bs : List Byte} (hm : Memory.wf m) :
    Memory.read (Memory.writeBytes m a bs) x =
      if a ≤ x ∧ x < a + bs.length then bs.getD (x - a) 0 else Memory.read m x := by
  induction bs generalizing m a with
  | nil =>
    simp only [Memory.writeBytes, List.length_nil]
    rw [if_neg (by omega)]
  | cons b bs ih =>
    simp only [Memory.writeBytes, ih (Memory.wf_write hm), Memory.read_write hm, List.length_cons]
    by_cases h1 : x = a
    · subst h1; simp
    · by_cases h2 : a + 1 ≤ x ∧ x < a + 1 + bs.length
      · have e : x - a = (x - (a + 1)) + 1 := by omega
        rw [if_pos h2, if_pos (by omega), e, List.getD_cons_succ]
      · rw [if_neg h2, if_neg h1, if_neg (by omega)]

/-- An address outside the written bytes reads as before. -/
theorem Memory.read_writeBytes_of_outside {m : List Host.Cell} {a x : Nat} {bs : List Byte} (hm : Memory.wf m)
    (h : ¬ (a ≤ x ∧ x < a + bs.length)) : Memory.read (Memory.writeBytes m a bs) x = Memory.read m x := by
  rw [Memory.read_writeBytes hm, if_neg h]

@[simp] theorem Memory.length_readBytes (m : List Host.Cell) (a count : Nat) : (Memory.readBytes m a count).length = count := by
  simp [Memory.readBytes]

/-- Reading where bytes were written gives those bytes. -/
theorem Memory.readBytes_writeBytes {m : List Host.Cell} {a : Nat} {bs : List Byte} (hm : Memory.wf m) :
    Memory.readBytes (Memory.writeBytes m a bs) a bs.length = bs := by
  apply List.ext_getElem (by simp)
  intro k h1 h2
  simp only [Memory.readBytes, List.getElem_map, List.getElem_range, Memory.read_writeBytes hm]
  rw [if_pos (by omega)]
  simp [h2]

/-- Reading elsewhere gives what stood there. -/
theorem Memory.readBytes_congr {m n : List Host.Cell} {a count : Nat}
    (h : ∀ k < count, Memory.read m (a + k) = Memory.read n (a + k)) :
    Memory.readBytes m a count = Memory.readBytes n a count := by
  simp only [Memory.readBytes]
  exact List.map_congr_left fun k hk => h k (List.mem_range.1 hk)

/-! Byte orders. -/

@[simp] theorem length_littleBytes (count v : Nat) : (littleBytes count v).length = count := by
  induction count generalizing v with
  | zero => rfl
  | succ n ih => simp [littleBytes, ih]

@[simp] theorem ByteOrder.length_bytes (o : ByteOrder) (count v : Nat) : (o.bytes count v).length = count := by
  cases o <;> simp [ByteOrder.bytes]

theorem littleValue_littleBytes (count v : Nat) : littleValue (littleBytes count v) = v % 2 ^ (8 * count) := by
  induction count generalizing v with
  | zero => simp [littleBytes, littleValue, Nat.mod_one]
  | succ n ih =>
    have e : 2 ^ (8 * (n + 1)) = 256 * 2 ^ (8 * n) := by rw [Nat.mul_add, Nat.pow_add]; norm_num [Nat.mul_comm]
    simp only [littleBytes, littleValue, ih, e, Nat.mod_mul, BitVec.toNat_ofNat]

theorem littleValue_lt (bs : List Byte) : littleValue bs < 2 ^ (8 * bs.length) := by
  induction bs with
  | nil => simp [littleValue]
  | cons b bs ih =>
    have e : 2 ^ (8 * (bs.length + 1)) = 256 * 2 ^ (8 * bs.length) := by
      rw [Nat.mul_add, Nat.pow_add]; norm_num [Nat.mul_comm]
    have hb : b.toNat < 256 := b.isLt
    simp only [littleValue, List.length_cons, e]
    omega

/-- The bytes of a value in an order hold the low bits of the value in that order. -/
theorem ByteOrder.value_bytes (o : ByteOrder) (count v : Nat) : o.value (o.bytes count v) = v % 2 ^ (8 * count) := by
  cases o <;> simp [ByteOrder.value, ByteOrder.bytes, littleValue_littleBytes]

theorem ByteOrder.value_lt (o : ByteOrder) (bs : List Byte) : o.value bs < 2 ^ (8 * bs.length) := by
  cases o
  · simpa [ByteOrder.value] using littleValue_lt bs.reverse
  · exact littleValue_lt bs

/-- The low bytes of a number do not depend on the rest of it. -/
theorem littleBytes_mod (count v : Nat) : littleBytes count (v % 2 ^ (8 * count)) = littleBytes count v := by
  induction count generalizing v with
  | zero => rfl
  | succ n ih =>
    have e : 2 ^ (8 * (n + 1)) = 256 * 2 ^ (8 * n) := by rw [Nat.mul_add, Nat.pow_add]; norm_num [Nat.mul_comm]
    simp only [littleBytes]
    congr 1
    · apply BitVec.eq_of_toNat_eq
      simp only [BitVec.toNat_ofNat, e]
      exact Nat.mod_mul_right_mod v 256 _
    · rw [e, Nat.mod_mul_right_div_self, ih]

theorem ByteOrder.bytes_mod (o : ByteOrder) (count v : Nat) : o.bytes count (v % 2 ^ (8 * count)) = o.bytes count v := by
  cases o <;> simp only [ByteOrder.bytes, littleBytes_mod]

/-! Tags. -/

theorem Tags.mem_record {tags : List XTag} {n t : XTag} (h : t ∈ Tags.record tags n) : t ∈ tags ∨ t = n := by
  induction tags with
  | nil => simp_all [Tags.record]
  | cons u tags ih =>
    unfold Tags.record at h
    split at h
    · simp_all; tauto
    · split at h
      · simp_all; tauto
      · rcases List.mem_cons.1 h with rfl | h
        · simp
        · rcases ih h with h | h <;> simp_all

/-- Recording a tag keeps the canonical form. -/
theorem Tags.wf_record {tags : List XTag} {n : XTag} (h : Tags.wf tags) : Tags.wf (Tags.record tags n) := by
  induction tags with
  | nil => simp [Tags.record]
  | cons t tags ih =>
    have h' := List.pairwise_cons.1 h
    unfold Tags.record
    split
    · next hn =>
      refine List.pairwise_cons.2 ⟨fun u hu => ?_, h⟩
      rcases List.mem_cons.1 hu with rfl | hu
      · exact hn
      · exact lt_trans hn (h'.1 u hu)
    · split
      · next hn => exact List.pairwise_cons.2 ⟨fun u hu => hn ▸ h'.1 u hu, h'.2⟩
      · refine List.pairwise_cons.2 ⟨fun u hu => ?_, ih h'.2⟩
        rcases Tags.mem_record hu with hu | rfl
        · exact h'.1 u hu
        · omega

/-- The tag of an address after a tag is recorded. -/
theorem Tags.find_record (tags : List XTag) (n : XTag) (a : Nat) :
    Tags.find (Tags.record tags n) a = if a = n.addr then some n else Tags.find tags a := by
  induction tags with
  | nil => simp [Tags.record, Tags.find, eq_comm]
  | cons t tags ih =>
    unfold Tags.record
    split
    · simp only [Tags.find, eq_comm]
    · split
      · next hn =>
        simp only [Tags.find]
        by_cases ha : a = n.addr
        · simp [ha]
        · rw [if_neg (fun e => ha e.symm), if_neg ha, if_neg (fun e => ha (by omega))]
      · next h1 h2 =>
        simp only [Tags.find, ih]
        by_cases ha : a = n.addr
        · rw [if_neg (by omega), if_pos ha, if_pos ha]
        · simp [ha]

/-- Marking tags keeps their addresses. -/
theorem Tags.addr_mark (shift a count : Nat) (tags : List XTag) :
    (Tags.mark shift a count tags).map XTag.addr = tags.map XTag.addr := by
  simp only [Tags.mark, List.map_map]
  exact List.map_congr_left fun t _ => by simp only [Function.comp]; split <;> rfl

theorem Tags.wf_iff (tags : List XTag) : Tags.wf tags ↔ (tags.map XTag.addr).Pairwise (· < ·) := by
  rw [List.pairwise_map]

/-- Marking tags keeps the canonical form. -/
theorem Tags.wf_mark {shift a count : Nat} {tags : List XTag} (h : Tags.wf tags) : Tags.wf (Tags.mark shift a count tags) := by
  rw [Tags.wf_iff, Tags.addr_mark, ← Tags.wf_iff]; exact h

theorem Tags.mem_mark {shift a count : Nat} {tags : List XTag} {t : XTag} (h : t ∈ Tags.mark shift a count tags) :
    ∃ u ∈ tags, t.addr = u.addr ∧ t.flags = u.flags := by
  obtain ⟨u, hu, rfl⟩ := List.mem_map.1 h
  exact ⟨u, hu, by split <;> exact ⟨rfl, rfl⟩⟩

/-- The memory of the reset state is in its canonical form. -/
theorem Memory.wf_reset : Memory.wf State.reset.mem := Memory.wf_nil

end Sys2Proof.Machine
end

