-- ==== Sys2Proof/Laws/State.lean ====
section
/-!
SUPPORT. For every update of the state, one lemma for each field that it leaves alone and for each flag and width that it cannot
change.
-/

namespace Sys2Proof.Machine

@[simp] theorem State.putT_bankA (s : State) (b : Bool) : (s.putT b).bankA = s.bankA := rfl
@[simp] theorem State.putT_bankB (s : State) (b : Bool) : (s.putT b).bankB = s.bankB := rfl
@[simp] theorem State.putT_rh (s : State) (b : Bool) : (s.putT b).rh = s.rh := rfl
@[simp] theorem State.putT_fr (s : State) (b : Bool) : (s.putT b).fr = s.fr := rfl
@[simp] theorem State.putT_pc (s : State) (b : Bool) : (s.putT b).pc = s.pc := rfl
@[simp] theorem State.putT_gbr (s : State) (b : Bool) : (s.putT b).gbr = s.gbr := rfl
@[simp] theorem State.putT_vbr (s : State) (b : Bool) : (s.putT b).vbr = s.vbr := rfl
@[simp] theorem State.putT_vbrWritten (s : State) (b : Bool) : (s.putT b).vbrWritten = s.vbrWritten := rfl
@[simp] theorem State.putT_ssr (s : State) (b : Bool) : (s.putT b).ssr = s.ssr := rfl
@[simp] theorem State.putT_spc (s : State) (b : Bool) : (s.putT b).spc = s.spc := rfl
@[simp] theorem State.putT_dbr (s : State) (b : Bool) : (s.putT b).dbr = s.dbr := rfl
@[simp] theorem State.putT_mach (s : State) (b : Bool) : (s.putT b).mach = s.mach := rfl
@[simp] theorem State.putT_macl (s : State) (b : Bool) : (s.putT b).macl = s.macl := rfl
@[simp] theorem State.putT_pr (s : State) (b : Bool) : (s.putT b).pr = s.pr := rfl
@[simp] theorem State.putT_fpscr (s : State) (b : Bool) : (s.putT b).fpscr = s.fpscr := rfl
@[simp] theorem State.putT_fpul (s : State) (b : Bool) : (s.putT b).fpul = s.fpul := rfl
@[simp] theorem State.putT_slot (s : State) (b : Bool) : (s.putT b).slot = s.slot := rfl
@[simp] theorem State.putT_xtag (s : State) (b : Bool) : (s.putT b).xtag = s.xtag := rfl
@[simp] theorem State.putT_asleep (s : State) (b : Bool) : (s.putT b).asleep = s.asleep := rfl
@[simp] theorem State.putT_mem (s : State) (b : Bool) : (s.putT b).mem = s.mem := rfl
@[simp] theorem State.putT_irqInput (s : State) (b : Bool) : (s.putT b).irqInput = s.irqInput := rfl
@[simp] theorem State.putT_draws (s : State) (b : Bool) : (s.putT b).draws = s.draws := rfl
@[simp] theorem State.putT_params (s : State) (b : Bool) : (s.putT b).params = s.params := rfl

@[simp] theorem State.putSatur_bankA (s : State) (b : Bool) : (s.putSatur b).bankA = s.bankA := rfl
@[simp] theorem State.putSatur_bankB (s : State) (b : Bool) : (s.putSatur b).bankB = s.bankB := rfl
@[simp] theorem State.putSatur_rh (s : State) (b : Bool) : (s.putSatur b).rh = s.rh := rfl
@[simp] theorem State.putSatur_fr (s : State) (b : Bool) : (s.putSatur b).fr = s.fr := rfl
@[simp] theorem State.putSatur_pc (s : State) (b : Bool) : (s.putSatur b).pc = s.pc := rfl
@[simp] theorem State.putSatur_gbr (s : State) (b : Bool) : (s.putSatur b).gbr = s.gbr := rfl
@[simp] theorem State.putSatur_vbr (s : State) (b : Bool) : (s.putSatur b).vbr = s.vbr := rfl
@[simp] theorem State.putSatur_vbrWritten (s : State) (b : Bool) : (s.putSatur b).vbrWritten = s.vbrWritten := rfl
@[simp] theorem State.putSatur_ssr (s : State) (b : Bool) : (s.putSatur b).ssr = s.ssr := rfl
@[simp] theorem State.putSatur_spc (s : State) (b : Bool) : (s.putSatur b).spc = s.spc := rfl
@[simp] theorem State.putSatur_dbr (s : State) (b : Bool) : (s.putSatur b).dbr = s.dbr := rfl
@[simp] theorem State.putSatur_mach (s : State) (b : Bool) : (s.putSatur b).mach = s.mach := rfl
@[simp] theorem State.putSatur_macl (s : State) (b : Bool) : (s.putSatur b).macl = s.macl := rfl
@[simp] theorem State.putSatur_pr (s : State) (b : Bool) : (s.putSatur b).pr = s.pr := rfl
@[simp] theorem State.putSatur_fpscr (s : State) (b : Bool) : (s.putSatur b).fpscr = s.fpscr := rfl
@[simp] theorem State.putSatur_fpul (s : State) (b : Bool) : (s.putSatur b).fpul = s.fpul := rfl
@[simp] theorem State.putSatur_slot (s : State) (b : Bool) : (s.putSatur b).slot = s.slot := rfl
@[simp] theorem State.putSatur_xtag (s : State) (b : Bool) : (s.putSatur b).xtag = s.xtag := rfl
@[simp] theorem State.putSatur_asleep (s : State) (b : Bool) : (s.putSatur b).asleep = s.asleep := rfl
@[simp] theorem State.putSatur_mem (s : State) (b : Bool) : (s.putSatur b).mem = s.mem := rfl
@[simp] theorem State.putSatur_irqInput (s : State) (b : Bool) : (s.putSatur b).irqInput = s.irqInput := rfl
@[simp] theorem State.putSatur_draws (s : State) (b : Bool) : (s.putSatur b).draws = s.draws := rfl
@[simp] theorem State.putSatur_params (s : State) (b : Bool) : (s.putSatur b).params = s.params := rfl

@[simp] theorem State.putQ_bankA (s : State) (b : Bool) : (s.putQ b).bankA = s.bankA := rfl
@[simp] theorem State.putQ_bankB (s : State) (b : Bool) : (s.putQ b).bankB = s.bankB := rfl
@[simp] theorem State.putQ_rh (s : State) (b : Bool) : (s.putQ b).rh = s.rh := rfl
@[simp] theorem State.putQ_fr (s : State) (b : Bool) : (s.putQ b).fr = s.fr := rfl
@[simp] theorem State.putQ_pc (s : State) (b : Bool) : (s.putQ b).pc = s.pc := rfl
@[simp] theorem State.putQ_gbr (s : State) (b : Bool) : (s.putQ b).gbr = s.gbr := rfl
@[simp] theorem State.putQ_vbr (s : State) (b : Bool) : (s.putQ b).vbr = s.vbr := rfl
@[simp] theorem State.putQ_vbrWritten (s : State) (b : Bool) : (s.putQ b).vbrWritten = s.vbrWritten := rfl
@[simp] theorem State.putQ_ssr (s : State) (b : Bool) : (s.putQ b).ssr = s.ssr := rfl
@[simp] theorem State.putQ_spc (s : State) (b : Bool) : (s.putQ b).spc = s.spc := rfl
@[simp] theorem State.putQ_dbr (s : State) (b : Bool) : (s.putQ b).dbr = s.dbr := rfl
@[simp] theorem State.putQ_mach (s : State) (b : Bool) : (s.putQ b).mach = s.mach := rfl
@[simp] theorem State.putQ_macl (s : State) (b : Bool) : (s.putQ b).macl = s.macl := rfl
@[simp] theorem State.putQ_pr (s : State) (b : Bool) : (s.putQ b).pr = s.pr := rfl
@[simp] theorem State.putQ_fpscr (s : State) (b : Bool) : (s.putQ b).fpscr = s.fpscr := rfl
@[simp] theorem State.putQ_fpul (s : State) (b : Bool) : (s.putQ b).fpul = s.fpul := rfl
@[simp] theorem State.putQ_slot (s : State) (b : Bool) : (s.putQ b).slot = s.slot := rfl
@[simp] theorem State.putQ_xtag (s : State) (b : Bool) : (s.putQ b).xtag = s.xtag := rfl
@[simp] theorem State.putQ_asleep (s : State) (b : Bool) : (s.putQ b).asleep = s.asleep := rfl
@[simp] theorem State.putQ_mem (s : State) (b : Bool) : (s.putQ b).mem = s.mem := rfl
@[simp] theorem State.putQ_irqInput (s : State) (b : Bool) : (s.putQ b).irqInput = s.irqInput := rfl
@[simp] theorem State.putQ_draws (s : State) (b : Bool) : (s.putQ b).draws = s.draws := rfl
@[simp] theorem State.putQ_params (s : State) (b : Bool) : (s.putQ b).params = s.params := rfl

@[simp] theorem State.putM_bankA (s : State) (b : Bool) : (s.putM b).bankA = s.bankA := rfl
@[simp] theorem State.putM_bankB (s : State) (b : Bool) : (s.putM b).bankB = s.bankB := rfl
@[simp] theorem State.putM_rh (s : State) (b : Bool) : (s.putM b).rh = s.rh := rfl
@[simp] theorem State.putM_fr (s : State) (b : Bool) : (s.putM b).fr = s.fr := rfl
@[simp] theorem State.putM_pc (s : State) (b : Bool) : (s.putM b).pc = s.pc := rfl
@[simp] theorem State.putM_gbr (s : State) (b : Bool) : (s.putM b).gbr = s.gbr := rfl
@[simp] theorem State.putM_vbr (s : State) (b : Bool) : (s.putM b).vbr = s.vbr := rfl
@[simp] theorem State.putM_vbrWritten (s : State) (b : Bool) : (s.putM b).vbrWritten = s.vbrWritten := rfl
@[simp] theorem State.putM_ssr (s : State) (b : Bool) : (s.putM b).ssr = s.ssr := rfl
@[simp] theorem State.putM_spc (s : State) (b : Bool) : (s.putM b).spc = s.spc := rfl
@[simp] theorem State.putM_dbr (s : State) (b : Bool) : (s.putM b).dbr = s.dbr := rfl
@[simp] theorem State.putM_mach (s : State) (b : Bool) : (s.putM b).mach = s.mach := rfl
@[simp] theorem State.putM_macl (s : State) (b : Bool) : (s.putM b).macl = s.macl := rfl
@[simp] theorem State.putM_pr (s : State) (b : Bool) : (s.putM b).pr = s.pr := rfl
@[simp] theorem State.putM_fpscr (s : State) (b : Bool) : (s.putM b).fpscr = s.fpscr := rfl
@[simp] theorem State.putM_fpul (s : State) (b : Bool) : (s.putM b).fpul = s.fpul := rfl
@[simp] theorem State.putM_slot (s : State) (b : Bool) : (s.putM b).slot = s.slot := rfl
@[simp] theorem State.putM_xtag (s : State) (b : Bool) : (s.putM b).xtag = s.xtag := rfl
@[simp] theorem State.putM_asleep (s : State) (b : Bool) : (s.putM b).asleep = s.asleep := rfl
@[simp] theorem State.putM_mem (s : State) (b : Bool) : (s.putM b).mem = s.mem := rfl
@[simp] theorem State.putM_irqInput (s : State) (b : Bool) : (s.putM b).irqInput = s.irqInput := rfl
@[simp] theorem State.putM_draws (s : State) (b : Bool) : (s.putM b).draws = s.draws := rfl
@[simp] theorem State.putM_params (s : State) (b : Bool) : (s.putM b).params = s.params := rfl

@[simp] theorem State.putDQ_bankA (s : State) (b : Bool) : (s.putDQ b).bankA = s.bankA := rfl
@[simp] theorem State.putDQ_bankB (s : State) (b : Bool) : (s.putDQ b).bankB = s.bankB := rfl
@[simp] theorem State.putDQ_rh (s : State) (b : Bool) : (s.putDQ b).rh = s.rh := rfl
@[simp] theorem State.putDQ_fr (s : State) (b : Bool) : (s.putDQ b).fr = s.fr := rfl
@[simp] theorem State.putDQ_pc (s : State) (b : Bool) : (s.putDQ b).pc = s.pc := rfl
@[simp] theorem State.putDQ_gbr (s : State) (b : Bool) : (s.putDQ b).gbr = s.gbr := rfl
@[simp] theorem State.putDQ_vbr (s : State) (b : Bool) : (s.putDQ b).vbr = s.vbr := rfl
@[simp] theorem State.putDQ_vbrWritten (s : State) (b : Bool) : (s.putDQ b).vbrWritten = s.vbrWritten := rfl
@[simp] theorem State.putDQ_ssr (s : State) (b : Bool) : (s.putDQ b).ssr = s.ssr := rfl
@[simp] theorem State.putDQ_spc (s : State) (b : Bool) : (s.putDQ b).spc = s.spc := rfl
@[simp] theorem State.putDQ_dbr (s : State) (b : Bool) : (s.putDQ b).dbr = s.dbr := rfl
@[simp] theorem State.putDQ_mach (s : State) (b : Bool) : (s.putDQ b).mach = s.mach := rfl
@[simp] theorem State.putDQ_macl (s : State) (b : Bool) : (s.putDQ b).macl = s.macl := rfl
@[simp] theorem State.putDQ_pr (s : State) (b : Bool) : (s.putDQ b).pr = s.pr := rfl
@[simp] theorem State.putDQ_fpscr (s : State) (b : Bool) : (s.putDQ b).fpscr = s.fpscr := rfl
@[simp] theorem State.putDQ_fpul (s : State) (b : Bool) : (s.putDQ b).fpul = s.fpul := rfl
@[simp] theorem State.putDQ_slot (s : State) (b : Bool) : (s.putDQ b).slot = s.slot := rfl
@[simp] theorem State.putDQ_xtag (s : State) (b : Bool) : (s.putDQ b).xtag = s.xtag := rfl
@[simp] theorem State.putDQ_asleep (s : State) (b : Bool) : (s.putDQ b).asleep = s.asleep := rfl
@[simp] theorem State.putDQ_mem (s : State) (b : Bool) : (s.putDQ b).mem = s.mem := rfl
@[simp] theorem State.putDQ_irqInput (s : State) (b : Bool) : (s.putDQ b).irqInput = s.irqInput := rfl
@[simp] theorem State.putDQ_draws (s : State) (b : Bool) : (s.putDQ b).draws = s.draws := rfl
@[simp] theorem State.putDQ_params (s : State) (b : Bool) : (s.putDQ b).params = s.params := rfl

@[simp] theorem State.putFpSize_bankA (s : State) (b : Bool) : (s.putFpSize b).bankA = s.bankA := rfl
@[simp] theorem State.putFpSize_bankB (s : State) (b : Bool) : (s.putFpSize b).bankB = s.bankB := rfl
@[simp] theorem State.putFpSize_rh (s : State) (b : Bool) : (s.putFpSize b).rh = s.rh := rfl
@[simp] theorem State.putFpSize_fr (s : State) (b : Bool) : (s.putFpSize b).fr = s.fr := rfl
@[simp] theorem State.putFpSize_pc (s : State) (b : Bool) : (s.putFpSize b).pc = s.pc := rfl
@[simp] theorem State.putFpSize_sr (s : State) (b : Bool) : (s.putFpSize b).sr = s.sr := rfl
@[simp] theorem State.putFpSize_gbr (s : State) (b : Bool) : (s.putFpSize b).gbr = s.gbr := rfl
@[simp] theorem State.putFpSize_vbr (s : State) (b : Bool) : (s.putFpSize b).vbr = s.vbr := rfl
@[simp] theorem State.putFpSize_vbrWritten (s : State) (b : Bool) : (s.putFpSize b).vbrWritten = s.vbrWritten := rfl
@[simp] theorem State.putFpSize_ssr (s : State) (b : Bool) : (s.putFpSize b).ssr = s.ssr := rfl
@[simp] theorem State.putFpSize_spc (s : State) (b : Bool) : (s.putFpSize b).spc = s.spc := rfl
@[simp] theorem State.putFpSize_dbr (s : State) (b : Bool) : (s.putFpSize b).dbr = s.dbr := rfl
@[simp] theorem State.putFpSize_mach (s : State) (b : Bool) : (s.putFpSize b).mach = s.mach := rfl
@[simp] theorem State.putFpSize_macl (s : State) (b : Bool) : (s.putFpSize b).macl = s.macl := rfl
@[simp] theorem State.putFpSize_pr (s : State) (b : Bool) : (s.putFpSize b).pr = s.pr := rfl
@[simp] theorem State.putFpSize_fpul (s : State) (b : Bool) : (s.putFpSize b).fpul = s.fpul := rfl
@[simp] theorem State.putFpSize_slot (s : State) (b : Bool) : (s.putFpSize b).slot = s.slot := rfl
@[simp] theorem State.putFpSize_xtag (s : State) (b : Bool) : (s.putFpSize b).xtag = s.xtag := rfl
@[simp] theorem State.putFpSize_asleep (s : State) (b : Bool) : (s.putFpSize b).asleep = s.asleep := rfl
@[simp] theorem State.putFpSize_mem (s : State) (b : Bool) : (s.putFpSize b).mem = s.mem := rfl
@[simp] theorem State.putFpSize_irqInput (s : State) (b : Bool) : (s.putFpSize b).irqInput = s.irqInput := rfl
@[simp] theorem State.putFpSize_draws (s : State) (b : Bool) : (s.putFpSize b).draws = s.draws := rfl
@[simp] theorem State.putFpSize_params (s : State) (b : Bool) : (s.putFpSize b).params = s.params := rfl
@[simp] theorem State.putFpSize_t (s : State) (b : Bool) : (s.putFpSize b).t = s.t := rfl
@[simp] theorem State.putFpSize_satur (s : State) (b : Bool) : (s.putFpSize b).satur = s.satur := rfl
@[simp] theorem State.putFpSize_q (s : State) (b : Bool) : (s.putFpSize b).q = s.q := rfl
@[simp] theorem State.putFpSize_m (s : State) (b : Bool) : (s.putFpSize b).m = s.m := rfl
@[simp] theorem State.putFpSize_fd (s : State) (b : Bool) : (s.putFpSize b).fd = s.fd := rfl
@[simp] theorem State.putFpSize_bl (s : State) (b : Bool) : (s.putFpSize b).bl = s.bl := rfl
@[simp] theorem State.putFpSize_md (s : State) (b : Bool) : (s.putFpSize b).md = s.md := rfl
@[simp] theorem State.putFpSize_wide (s : State) (b : Bool) : (s.putFpSize b).wide = s.wide := rfl
@[simp] theorem State.putFpSize_W (s : State) (b : Bool) : (s.putFpSize b).W = s.W := rfl
@[simp] theorem State.putFpSize_dq (s : State) (b : Bool) : (s.putFpSize b).dq = s.dq := rfl
@[simp] theorem State.putFpSize_aq (s : State) (b : Bool) : (s.putFpSize b).aq = s.aq := rfl
@[simp] theorem State.putFpSize_bankBActive (s : State) (b : Bool) : (s.putFpSize b).bankBActive = s.bankBActive := rfl
@[simp] theorem State.putFpSize_localOrder (s : State) (b : Bool) : (s.putFpSize b).localOrder = s.localOrder := rfl
@[simp] theorem State.putFpSize_machineOrder (s : State) (b : Bool) : (s.putFpSize b).machineOrder = s.machineOrder := rfl

@[simp] theorem State.putReg_fr (s : State) (i : Reg) (r : Reg64) : (s.putReg i r).fr = s.fr := rfl
@[simp] theorem State.putReg_pc (s : State) (i : Reg) (r : Reg64) : (s.putReg i r).pc = s.pc := rfl
@[simp] theorem State.putReg_sr (s : State) (i : Reg) (r : Reg64) : (s.putReg i r).sr = s.sr := rfl
@[simp] theorem State.putReg_gbr (s : State) (i : Reg) (r : Reg64) : (s.putReg i r).gbr = s.gbr := rfl
@[simp] theorem State.putReg_vbr (s : State) (i : Reg) (r : Reg64) : (s.putReg i r).vbr = s.vbr := rfl
@[simp] theorem State.putReg_vbrWritten (s : State) (i : Reg) (r : Reg64) : (s.putReg i r).vbrWritten = s.vbrWritten := rfl
@[simp] theorem State.putReg_ssr (s : State) (i : Reg) (r : Reg64) : (s.putReg i r).ssr = s.ssr := rfl
@[simp] theorem State.putReg_spc (s : State) (i : Reg) (r : Reg64) : (s.putReg i r).spc = s.spc := rfl
@[simp] theorem State.putReg_dbr (s : State) (i : Reg) (r : Reg64) : (s.putReg i r).dbr = s.dbr := rfl
@[simp] theorem State.putReg_mach (s : State) (i : Reg) (r : Reg64) : (s.putReg i r).mach = s.mach := rfl
@[simp] theorem State.putReg_macl (s : State) (i : Reg) (r : Reg64) : (s.putReg i r).macl = s.macl := rfl
@[simp] theorem State.putReg_pr (s : State) (i : Reg) (r : Reg64) : (s.putReg i r).pr = s.pr := rfl
@[simp] theorem State.putReg_fpscr (s : State) (i : Reg) (r : Reg64) : (s.putReg i r).fpscr = s.fpscr := rfl
@[simp] theorem State.putReg_fpul (s : State) (i : Reg) (r : Reg64) : (s.putReg i r).fpul = s.fpul := rfl
@[simp] theorem State.putReg_slot (s : State) (i : Reg) (r : Reg64) : (s.putReg i r).slot = s.slot := rfl
@[simp] theorem State.putReg_xtag (s : State) (i : Reg) (r : Reg64) : (s.putReg i r).xtag = s.xtag := rfl
@[simp] theorem State.putReg_asleep (s : State) (i : Reg) (r : Reg64) : (s.putReg i r).asleep = s.asleep := rfl
@[simp] theorem State.putReg_mem (s : State) (i : Reg) (r : Reg64) : (s.putReg i r).mem = s.mem := rfl
@[simp] theorem State.putReg_irqInput (s : State) (i : Reg) (r : Reg64) : (s.putReg i r).irqInput = s.irqInput := rfl
@[simp] theorem State.putReg_draws (s : State) (i : Reg) (r : Reg64) : (s.putReg i r).draws = s.draws := rfl
@[simp] theorem State.putReg_params (s : State) (i : Reg) (r : Reg64) : (s.putReg i r).params = s.params := rfl
@[simp] theorem State.putReg_t (s : State) (i : Reg) (r : Reg64) : (s.putReg i r).t = s.t := rfl
@[simp] theorem State.putReg_satur (s : State) (i : Reg) (r : Reg64) : (s.putReg i r).satur = s.satur := rfl
@[simp] theorem State.putReg_q (s : State) (i : Reg) (r : Reg64) : (s.putReg i r).q = s.q := rfl
@[simp] theorem State.putReg_m (s : State) (i : Reg) (r : Reg64) : (s.putReg i r).m = s.m := rfl
@[simp] theorem State.putReg_fd (s : State) (i : Reg) (r : Reg64) : (s.putReg i r).fd = s.fd := rfl
@[simp] theorem State.putReg_bl (s : State) (i : Reg) (r : Reg64) : (s.putReg i r).bl = s.bl := rfl
@[simp] theorem State.putReg_md (s : State) (i : Reg) (r : Reg64) : (s.putReg i r).md = s.md := rfl
@[simp] theorem State.putReg_wide (s : State) (i : Reg) (r : Reg64) : (s.putReg i r).wide = s.wide := rfl
@[simp] theorem State.putReg_W (s : State) (i : Reg) (r : Reg64) : (s.putReg i r).W = s.W := rfl
@[simp] theorem State.putReg_dq (s : State) (i : Reg) (r : Reg64) : (s.putReg i r).dq = s.dq := rfl
@[simp] theorem State.putReg_aq (s : State) (i : Reg) (r : Reg64) : (s.putReg i r).aq = s.aq := rfl
@[simp] theorem State.putReg_bankBActive (s : State) (i : Reg) (r : Reg64) : (s.putReg i r).bankBActive = s.bankBActive := rfl
@[simp] theorem State.putReg_localOrder (s : State) (i : Reg) (r : Reg64) : (s.putReg i r).localOrder = s.localOrder := rfl
@[simp] theorem State.putReg_machineOrder (s : State) (i : Reg) (r : Reg64) : (s.putReg i r).machineOrder = s.machineOrder := rfl
@[simp] theorem State.putReg_modeFlags (s : State) (i : Reg) (r : Reg64) : (s.putReg i r).modeFlags = s.modeFlags := rfl

@[simp] theorem State.putOtherReg_rh (s : State) (i : BankReg) (r : Reg64) : (s.putOtherReg i r).rh = s.rh := rfl
@[simp] theorem State.putOtherReg_fr (s : State) (i : BankReg) (r : Reg64) : (s.putOtherReg i r).fr = s.fr := rfl
@[simp] theorem State.putOtherReg_pc (s : State) (i : BankReg) (r : Reg64) : (s.putOtherReg i r).pc = s.pc := rfl
@[simp] theorem State.putOtherReg_sr (s : State) (i : BankReg) (r : Reg64) : (s.putOtherReg i r).sr = s.sr := rfl
@[simp] theorem State.putOtherReg_gbr (s : State) (i : BankReg) (r : Reg64) : (s.putOtherReg i r).gbr = s.gbr := rfl
@[simp] theorem State.putOtherReg_vbr (s : State) (i : BankReg) (r : Reg64) : (s.putOtherReg i r).vbr = s.vbr := rfl
@[simp] theorem State.putOtherReg_vbrWritten (s : State) (i : BankReg) (r : Reg64) : (s.putOtherReg i r).vbrWritten = s.vbrWritten := rfl
@[simp] theorem State.putOtherReg_ssr (s : State) (i : BankReg) (r : Reg64) : (s.putOtherReg i r).ssr = s.ssr := rfl
@[simp] theorem State.putOtherReg_spc (s : State) (i : BankReg) (r : Reg64) : (s.putOtherReg i r).spc = s.spc := rfl
@[simp] theorem State.putOtherReg_dbr (s : State) (i : BankReg) (r : Reg64) : (s.putOtherReg i r).dbr = s.dbr := rfl
@[simp] theorem State.putOtherReg_mach (s : State) (i : BankReg) (r : Reg64) : (s.putOtherReg i r).mach = s.mach := rfl
@[simp] theorem State.putOtherReg_macl (s : State) (i : BankReg) (r : Reg64) : (s.putOtherReg i r).macl = s.macl := rfl
@[simp] theorem State.putOtherReg_pr (s : State) (i : BankReg) (r : Reg64) : (s.putOtherReg i r).pr = s.pr := rfl
@[simp] theorem State.putOtherReg_fpscr (s : State) (i : BankReg) (r : Reg64) : (s.putOtherReg i r).fpscr = s.fpscr := rfl
@[simp] theorem State.putOtherReg_fpul (s : State) (i : BankReg) (r : Reg64) : (s.putOtherReg i r).fpul = s.fpul := rfl
@[simp] theorem State.putOtherReg_slot (s : State) (i : BankReg) (r : Reg64) : (s.putOtherReg i r).slot = s.slot := rfl
@[simp] theorem State.putOtherReg_xtag (s : State) (i : BankReg) (r : Reg64) : (s.putOtherReg i r).xtag = s.xtag := rfl
@[simp] theorem State.putOtherReg_asleep (s : State) (i : BankReg) (r : Reg64) : (s.putOtherReg i r).asleep = s.asleep := rfl
@[simp] theorem State.putOtherReg_mem (s : State) (i : BankReg) (r : Reg64) : (s.putOtherReg i r).mem = s.mem := rfl
@[simp] theorem State.putOtherReg_irqInput (s : State) (i : BankReg) (r : Reg64) : (s.putOtherReg i r).irqInput = s.irqInput := rfl
@[simp] theorem State.putOtherReg_draws (s : State) (i : BankReg) (r : Reg64) : (s.putOtherReg i r).draws = s.draws := rfl
@[simp] theorem State.putOtherReg_params (s : State) (i : BankReg) (r : Reg64) : (s.putOtherReg i r).params = s.params := rfl
@[simp] theorem State.putOtherReg_t (s : State) (i : BankReg) (r : Reg64) : (s.putOtherReg i r).t = s.t := rfl
@[simp] theorem State.putOtherReg_satur (s : State) (i : BankReg) (r : Reg64) : (s.putOtherReg i r).satur = s.satur := rfl
@[simp] theorem State.putOtherReg_q (s : State) (i : BankReg) (r : Reg64) : (s.putOtherReg i r).q = s.q := rfl
@[simp] theorem State.putOtherReg_m (s : State) (i : BankReg) (r : Reg64) : (s.putOtherReg i r).m = s.m := rfl
@[simp] theorem State.putOtherReg_fd (s : State) (i : BankReg) (r : Reg64) : (s.putOtherReg i r).fd = s.fd := rfl
@[simp] theorem State.putOtherReg_bl (s : State) (i : BankReg) (r : Reg64) : (s.putOtherReg i r).bl = s.bl := rfl
@[simp] theorem State.putOtherReg_md (s : State) (i : BankReg) (r : Reg64) : (s.putOtherReg i r).md = s.md := rfl
@[simp] theorem State.putOtherReg_wide (s : State) (i : BankReg) (r : Reg64) : (s.putOtherReg i r).wide = s.wide := rfl
@[simp] theorem State.putOtherReg_W (s : State) (i : BankReg) (r : Reg64) : (s.putOtherReg i r).W = s.W := rfl
@[simp] theorem State.putOtherReg_dq (s : State) (i : BankReg) (r : Reg64) : (s.putOtherReg i r).dq = s.dq := rfl
@[simp] theorem State.putOtherReg_aq (s : State) (i : BankReg) (r : Reg64) : (s.putOtherReg i r).aq = s.aq := rfl
@[simp] theorem State.putOtherReg_bankBActive (s : State) (i : BankReg) (r : Reg64) : (s.putOtherReg i r).bankBActive = s.bankBActive := rfl
@[simp] theorem State.putOtherReg_localOrder (s : State) (i : BankReg) (r : Reg64) : (s.putOtherReg i r).localOrder = s.localOrder := rfl
@[simp] theorem State.putOtherReg_machineOrder (s : State) (i : BankReg) (r : Reg64) : (s.putOtherReg i r).machineOrder = s.machineOrder := rfl
@[simp] theorem State.putOtherReg_modeFlags (s : State) (i : BankReg) (r : Reg64) : (s.putOtherReg i r).modeFlags = s.modeFlags := rfl

@[simp] theorem State.drawn_bankA (s : State) (k : Nat) : (s.drawn k).bankA = s.bankA := rfl
@[simp] theorem State.drawn_bankB (s : State) (k : Nat) : (s.drawn k).bankB = s.bankB := rfl
@[simp] theorem State.drawn_rh (s : State) (k : Nat) : (s.drawn k).rh = s.rh := rfl
@[simp] theorem State.drawn_fr (s : State) (k : Nat) : (s.drawn k).fr = s.fr := rfl
@[simp] theorem State.drawn_pc (s : State) (k : Nat) : (s.drawn k).pc = s.pc := rfl
@[simp] theorem State.drawn_sr (s : State) (k : Nat) : (s.drawn k).sr = s.sr := rfl
@[simp] theorem State.drawn_gbr (s : State) (k : Nat) : (s.drawn k).gbr = s.gbr := rfl
@[simp] theorem State.drawn_vbr (s : State) (k : Nat) : (s.drawn k).vbr = s.vbr := rfl
@[simp] theorem State.drawn_vbrWritten (s : State) (k : Nat) : (s.drawn k).vbrWritten = s.vbrWritten := rfl
@[simp] theorem State.drawn_ssr (s : State) (k : Nat) : (s.drawn k).ssr = s.ssr := rfl
@[simp] theorem State.drawn_spc (s : State) (k : Nat) : (s.drawn k).spc = s.spc := rfl
@[simp] theorem State.drawn_dbr (s : State) (k : Nat) : (s.drawn k).dbr = s.dbr := rfl
@[simp] theorem State.drawn_mach (s : State) (k : Nat) : (s.drawn k).mach = s.mach := rfl
@[simp] theorem State.drawn_macl (s : State) (k : Nat) : (s.drawn k).macl = s.macl := rfl
@[simp] theorem State.drawn_pr (s : State) (k : Nat) : (s.drawn k).pr = s.pr := rfl
@[simp] theorem State.drawn_fpscr (s : State) (k : Nat) : (s.drawn k).fpscr = s.fpscr := rfl
@[simp] theorem State.drawn_fpul (s : State) (k : Nat) : (s.drawn k).fpul = s.fpul := rfl
@[simp] theorem State.drawn_slot (s : State) (k : Nat) : (s.drawn k).slot = s.slot := rfl
@[simp] theorem State.drawn_xtag (s : State) (k : Nat) : (s.drawn k).xtag = s.xtag := rfl
@[simp] theorem State.drawn_asleep (s : State) (k : Nat) : (s.drawn k).asleep = s.asleep := rfl
@[simp] theorem State.drawn_mem (s : State) (k : Nat) : (s.drawn k).mem = s.mem := rfl
@[simp] theorem State.drawn_irqInput (s : State) (k : Nat) : (s.drawn k).irqInput = s.irqInput := rfl
@[simp] theorem State.drawn_params (s : State) (k : Nat) : (s.drawn k).params = s.params := rfl
@[simp] theorem State.drawn_t (s : State) (k : Nat) : (s.drawn k).t = s.t := rfl
@[simp] theorem State.drawn_satur (s : State) (k : Nat) : (s.drawn k).satur = s.satur := rfl
@[simp] theorem State.drawn_q (s : State) (k : Nat) : (s.drawn k).q = s.q := rfl
@[simp] theorem State.drawn_m (s : State) (k : Nat) : (s.drawn k).m = s.m := rfl
@[simp] theorem State.drawn_fd (s : State) (k : Nat) : (s.drawn k).fd = s.fd := rfl
@[simp] theorem State.drawn_bl (s : State) (k : Nat) : (s.drawn k).bl = s.bl := rfl
@[simp] theorem State.drawn_md (s : State) (k : Nat) : (s.drawn k).md = s.md := rfl
@[simp] theorem State.drawn_wide (s : State) (k : Nat) : (s.drawn k).wide = s.wide := rfl
@[simp] theorem State.drawn_W (s : State) (k : Nat) : (s.drawn k).W = s.W := rfl
@[simp] theorem State.drawn_dq (s : State) (k : Nat) : (s.drawn k).dq = s.dq := rfl
@[simp] theorem State.drawn_aq (s : State) (k : Nat) : (s.drawn k).aq = s.aq := rfl
@[simp] theorem State.drawn_bankBActive (s : State) (k : Nat) : (s.drawn k).bankBActive = s.bankBActive := rfl
@[simp] theorem State.drawn_localOrder (s : State) (k : Nat) : (s.drawn k).localOrder = s.localOrder := rfl
@[simp] theorem State.drawn_machineOrder (s : State) (k : Nat) : (s.drawn k).machineOrder = s.machineOrder := rfl
@[simp] theorem State.drawn_modeFlags (s : State) (k : Nat) : (s.drawn k).modeFlags = s.modeFlags := rfl

@[simp] theorem State.setX_fr (s : State) (i : Reg) {w : Nat} (v : BitVec w) : (s.setX i v).fr = s.fr := rfl
@[simp] theorem State.setX_pc (s : State) (i : Reg) {w : Nat} (v : BitVec w) : (s.setX i v).pc = s.pc := rfl
@[simp] theorem State.setX_sr (s : State) (i : Reg) {w : Nat} (v : BitVec w) : (s.setX i v).sr = s.sr := rfl
@[simp] theorem State.setX_gbr (s : State) (i : Reg) {w : Nat} (v : BitVec w) : (s.setX i v).gbr = s.gbr := rfl
@[simp] theorem State.setX_vbr (s : State) (i : Reg) {w : Nat} (v : BitVec w) : (s.setX i v).vbr = s.vbr := rfl
@[simp] theorem State.setX_vbrWritten (s : State) (i : Reg) {w : Nat} (v : BitVec w) : (s.setX i v).vbrWritten = s.vbrWritten := rfl
@[simp] theorem State.setX_ssr (s : State) (i : Reg) {w : Nat} (v : BitVec w) : (s.setX i v).ssr = s.ssr := rfl
@[simp] theorem State.setX_spc (s : State) (i : Reg) {w : Nat} (v : BitVec w) : (s.setX i v).spc = s.spc := rfl
@[simp] theorem State.setX_dbr (s : State) (i : Reg) {w : Nat} (v : BitVec w) : (s.setX i v).dbr = s.dbr := rfl
@[simp] theorem State.setX_mach (s : State) (i : Reg) {w : Nat} (v : BitVec w) : (s.setX i v).mach = s.mach := rfl
@[simp] theorem State.setX_macl (s : State) (i : Reg) {w : Nat} (v : BitVec w) : (s.setX i v).macl = s.macl := rfl
@[simp] theorem State.setX_pr (s : State) (i : Reg) {w : Nat} (v : BitVec w) : (s.setX i v).pr = s.pr := rfl
@[simp] theorem State.setX_fpscr (s : State) (i : Reg) {w : Nat} (v : BitVec w) : (s.setX i v).fpscr = s.fpscr := rfl
@[simp] theorem State.setX_fpul (s : State) (i : Reg) {w : Nat} (v : BitVec w) : (s.setX i v).fpul = s.fpul := rfl
@[simp] theorem State.setX_slot (s : State) (i : Reg) {w : Nat} (v : BitVec w) : (s.setX i v).slot = s.slot := rfl
@[simp] theorem State.setX_xtag (s : State) (i : Reg) {w : Nat} (v : BitVec w) : (s.setX i v).xtag = s.xtag := rfl
@[simp] theorem State.setX_asleep (s : State) (i : Reg) {w : Nat} (v : BitVec w) : (s.setX i v).asleep = s.asleep := rfl
@[simp] theorem State.setX_mem (s : State) (i : Reg) {w : Nat} (v : BitVec w) : (s.setX i v).mem = s.mem := rfl
@[simp] theorem State.setX_irqInput (s : State) (i : Reg) {w : Nat} (v : BitVec w) : (s.setX i v).irqInput = s.irqInput := rfl
@[simp] theorem State.setX_params (s : State) (i : Reg) {w : Nat} (v : BitVec w) : (s.setX i v).params = s.params := rfl
@[simp] theorem State.setX_t (s : State) (i : Reg) {w : Nat} (v : BitVec w) : (s.setX i v).t = s.t := rfl
@[simp] theorem State.setX_satur (s : State) (i : Reg) {w : Nat} (v : BitVec w) : (s.setX i v).satur = s.satur := rfl
@[simp] theorem State.setX_q (s : State) (i : Reg) {w : Nat} (v : BitVec w) : (s.setX i v).q = s.q := rfl
@[simp] theorem State.setX_m (s : State) (i : Reg) {w : Nat} (v : BitVec w) : (s.setX i v).m = s.m := rfl
@[simp] theorem State.setX_fd (s : State) (i : Reg) {w : Nat} (v : BitVec w) : (s.setX i v).fd = s.fd := rfl
@[simp] theorem State.setX_bl (s : State) (i : Reg) {w : Nat} (v : BitVec w) : (s.setX i v).bl = s.bl := rfl
@[simp] theorem State.setX_md (s : State) (i : Reg) {w : Nat} (v : BitVec w) : (s.setX i v).md = s.md := rfl
@[simp] theorem State.setX_wide (s : State) (i : Reg) {w : Nat} (v : BitVec w) : (s.setX i v).wide = s.wide := rfl
@[simp] theorem State.setX_W (s : State) (i : Reg) {w : Nat} (v : BitVec w) : (s.setX i v).W = s.W := rfl
@[simp] theorem State.setX_dq (s : State) (i : Reg) {w : Nat} (v : BitVec w) : (s.setX i v).dq = s.dq := rfl
@[simp] theorem State.setX_aq (s : State) (i : Reg) {w : Nat} (v : BitVec w) : (s.setX i v).aq = s.aq := rfl
@[simp] theorem State.setX_bankBActive (s : State) (i : Reg) {w : Nat} (v : BitVec w) : (s.setX i v).bankBActive = s.bankBActive := rfl
@[simp] theorem State.setX_localOrder (s : State) (i : Reg) {w : Nat} (v : BitVec w) : (s.setX i v).localOrder = s.localOrder := rfl
@[simp] theorem State.setX_machineOrder (s : State) (i : Reg) {w : Nat} (v : BitVec w) : (s.setX i v).machineOrder = s.machineOrder := rfl
@[simp] theorem State.setX_modeFlags (s : State) (i : Reg) {w : Nat} (v : BitVec w) : (s.setX i v).modeFlags = s.modeFlags := rfl

@[simp] theorem State.setXLow_fr (s : State) (i : Reg) (v : BitVec 32) : (s.setXLow i v).fr = s.fr := rfl
@[simp] theorem State.setXLow_pc (s : State) (i : Reg) (v : BitVec 32) : (s.setXLow i v).pc = s.pc := rfl
@[simp] theorem State.setXLow_sr (s : State) (i : Reg) (v : BitVec 32) : (s.setXLow i v).sr = s.sr := rfl
@[simp] theorem State.setXLow_gbr (s : State) (i : Reg) (v : BitVec 32) : (s.setXLow i v).gbr = s.gbr := rfl
@[simp] theorem State.setXLow_vbr (s : State) (i : Reg) (v : BitVec 32) : (s.setXLow i v).vbr = s.vbr := rfl
@[simp] theorem State.setXLow_vbrWritten (s : State) (i : Reg) (v : BitVec 32) : (s.setXLow i v).vbrWritten = s.vbrWritten := rfl
@[simp] theorem State.setXLow_ssr (s : State) (i : Reg) (v : BitVec 32) : (s.setXLow i v).ssr = s.ssr := rfl
@[simp] theorem State.setXLow_spc (s : State) (i : Reg) (v : BitVec 32) : (s.setXLow i v).spc = s.spc := rfl
@[simp] theorem State.setXLow_dbr (s : State) (i : Reg) (v : BitVec 32) : (s.setXLow i v).dbr = s.dbr := rfl
@[simp] theorem State.setXLow_mach (s : State) (i : Reg) (v : BitVec 32) : (s.setXLow i v).mach = s.mach := rfl
@[simp] theorem State.setXLow_macl (s : State) (i : Reg) (v : BitVec 32) : (s.setXLow i v).macl = s.macl := rfl
@[simp] theorem State.setXLow_pr (s : State) (i : Reg) (v : BitVec 32) : (s.setXLow i v).pr = s.pr := rfl
@[simp] theorem State.setXLow_fpscr (s : State) (i : Reg) (v : BitVec 32) : (s.setXLow i v).fpscr = s.fpscr := rfl
@[simp] theorem State.setXLow_fpul (s : State) (i : Reg) (v : BitVec 32) : (s.setXLow i v).fpul = s.fpul := rfl
@[simp] theorem State.setXLow_slot (s : State) (i : Reg) (v : BitVec 32) : (s.setXLow i v).slot = s.slot := rfl
@[simp] theorem State.setXLow_xtag (s : State) (i : Reg) (v : BitVec 32) : (s.setXLow i v).xtag = s.xtag := rfl
@[simp] theorem State.setXLow_asleep (s : State) (i : Reg) (v : BitVec 32) : (s.setXLow i v).asleep = s.asleep := rfl
@[simp] theorem State.setXLow_mem (s : State) (i : Reg) (v : BitVec 32) : (s.setXLow i v).mem = s.mem := rfl
@[simp] theorem State.setXLow_irqInput (s : State) (i : Reg) (v : BitVec 32) : (s.setXLow i v).irqInput = s.irqInput := rfl
@[simp] theorem State.setXLow_params (s : State) (i : Reg) (v : BitVec 32) : (s.setXLow i v).params = s.params := rfl
@[simp] theorem State.setXLow_t (s : State) (i : Reg) (v : BitVec 32) : (s.setXLow i v).t = s.t := rfl
@[simp] theorem State.setXLow_satur (s : State) (i : Reg) (v : BitVec 32) : (s.setXLow i v).satur = s.satur := rfl
@[simp] theorem State.setXLow_q (s : State) (i : Reg) (v : BitVec 32) : (s.setXLow i v).q = s.q := rfl
@[simp] theorem State.setXLow_m (s : State) (i : Reg) (v : BitVec 32) : (s.setXLow i v).m = s.m := rfl
@[simp] theorem State.setXLow_fd (s : State) (i : Reg) (v : BitVec 32) : (s.setXLow i v).fd = s.fd := rfl
@[simp] theorem State.setXLow_bl (s : State) (i : Reg) (v : BitVec 32) : (s.setXLow i v).bl = s.bl := rfl
@[simp] theorem State.setXLow_md (s : State) (i : Reg) (v : BitVec 32) : (s.setXLow i v).md = s.md := rfl
@[simp] theorem State.setXLow_wide (s : State) (i : Reg) (v : BitVec 32) : (s.setXLow i v).wide = s.wide := rfl
@[simp] theorem State.setXLow_W (s : State) (i : Reg) (v : BitVec 32) : (s.setXLow i v).W = s.W := rfl
@[simp] theorem State.setXLow_dq (s : State) (i : Reg) (v : BitVec 32) : (s.setXLow i v).dq = s.dq := rfl
@[simp] theorem State.setXLow_aq (s : State) (i : Reg) (v : BitVec 32) : (s.setXLow i v).aq = s.aq := rfl
@[simp] theorem State.setXLow_bankBActive (s : State) (i : Reg) (v : BitVec 32) : (s.setXLow i v).bankBActive = s.bankBActive := rfl
@[simp] theorem State.setXLow_localOrder (s : State) (i : Reg) (v : BitVec 32) : (s.setXLow i v).localOrder = s.localOrder := rfl
@[simp] theorem State.setXLow_machineOrder (s : State) (i : Reg) (v : BitVec 32) : (s.setXLow i v).machineOrder = s.machineOrder := rfl
@[simp] theorem State.setXLow_modeFlags (s : State) (i : Reg) (v : BitVec 32) : (s.setXLow i v).modeFlags = s.modeFlags := rfl

@[simp] theorem State.setXFree_fr (s : State) (i : Reg) : (s.setXFree i).fr = s.fr := rfl
@[simp] theorem State.setXFree_pc (s : State) (i : Reg) : (s.setXFree i).pc = s.pc := rfl
@[simp] theorem State.setXFree_sr (s : State) (i : Reg) : (s.setXFree i).sr = s.sr := rfl
@[simp] theorem State.setXFree_gbr (s : State) (i : Reg) : (s.setXFree i).gbr = s.gbr := rfl
@[simp] theorem State.setXFree_vbr (s : State) (i : Reg) : (s.setXFree i).vbr = s.vbr := rfl
@[simp] theorem State.setXFree_vbrWritten (s : State) (i : Reg) : (s.setXFree i).vbrWritten = s.vbrWritten := rfl
@[simp] theorem State.setXFree_ssr (s : State) (i : Reg) : (s.setXFree i).ssr = s.ssr := rfl
@[simp] theorem State.setXFree_spc (s : State) (i : Reg) : (s.setXFree i).spc = s.spc := rfl
@[simp] theorem State.setXFree_dbr (s : State) (i : Reg) : (s.setXFree i).dbr = s.dbr := rfl
@[simp] theorem State.setXFree_mach (s : State) (i : Reg) : (s.setXFree i).mach = s.mach := rfl
@[simp] theorem State.setXFree_macl (s : State) (i : Reg) : (s.setXFree i).macl = s.macl := rfl
@[simp] theorem State.setXFree_pr (s : State) (i : Reg) : (s.setXFree i).pr = s.pr := rfl
@[simp] theorem State.setXFree_fpscr (s : State) (i : Reg) : (s.setXFree i).fpscr = s.fpscr := rfl
@[simp] theorem State.setXFree_fpul (s : State) (i : Reg) : (s.setXFree i).fpul = s.fpul := rfl
@[simp] theorem State.setXFree_slot (s : State) (i : Reg) : (s.setXFree i).slot = s.slot := rfl
@[simp] theorem State.setXFree_xtag (s : State) (i : Reg) : (s.setXFree i).xtag = s.xtag := rfl
@[simp] theorem State.setXFree_asleep (s : State) (i : Reg) : (s.setXFree i).asleep = s.asleep := rfl
@[simp] theorem State.setXFree_mem (s : State) (i : Reg) : (s.setXFree i).mem = s.mem := rfl
@[simp] theorem State.setXFree_irqInput (s : State) (i : Reg) : (s.setXFree i).irqInput = s.irqInput := rfl
@[simp] theorem State.setXFree_params (s : State) (i : Reg) : (s.setXFree i).params = s.params := rfl
@[simp] theorem State.setXFree_t (s : State) (i : Reg) : (s.setXFree i).t = s.t := rfl
@[simp] theorem State.setXFree_satur (s : State) (i : Reg) : (s.setXFree i).satur = s.satur := rfl
@[simp] theorem State.setXFree_q (s : State) (i : Reg) : (s.setXFree i).q = s.q := rfl
@[simp] theorem State.setXFree_m (s : State) (i : Reg) : (s.setXFree i).m = s.m := rfl
@[simp] theorem State.setXFree_fd (s : State) (i : Reg) : (s.setXFree i).fd = s.fd := rfl
@[simp] theorem State.setXFree_bl (s : State) (i : Reg) : (s.setXFree i).bl = s.bl := rfl
@[simp] theorem State.setXFree_md (s : State) (i : Reg) : (s.setXFree i).md = s.md := rfl
@[simp] theorem State.setXFree_wide (s : State) (i : Reg) : (s.setXFree i).wide = s.wide := rfl
@[simp] theorem State.setXFree_W (s : State) (i : Reg) : (s.setXFree i).W = s.W := rfl
@[simp] theorem State.setXFree_dq (s : State) (i : Reg) : (s.setXFree i).dq = s.dq := rfl
@[simp] theorem State.setXFree_aq (s : State) (i : Reg) : (s.setXFree i).aq = s.aq := rfl
@[simp] theorem State.setXFree_bankBActive (s : State) (i : Reg) : (s.setXFree i).bankBActive = s.bankBActive := rfl
@[simp] theorem State.setXFree_localOrder (s : State) (i : Reg) : (s.setXFree i).localOrder = s.localOrder := rfl
@[simp] theorem State.setXFree_machineOrder (s : State) (i : Reg) : (s.setXFree i).machineOrder = s.machineOrder := rfl
@[simp] theorem State.setXFree_modeFlags (s : State) (i : Reg) : (s.setXFree i).modeFlags = s.modeFlags := rfl

@[simp] theorem State.setXOther_rh (s : State) (i : BankReg) {w : Nat} (v : BitVec w) : (s.setXOther i v).rh = s.rh := rfl
@[simp] theorem State.setXOther_fr (s : State) (i : BankReg) {w : Nat} (v : BitVec w) : (s.setXOther i v).fr = s.fr := rfl
@[simp] theorem State.setXOther_pc (s : State) (i : BankReg) {w : Nat} (v : BitVec w) : (s.setXOther i v).pc = s.pc := rfl
@[simp] theorem State.setXOther_sr (s : State) (i : BankReg) {w : Nat} (v : BitVec w) : (s.setXOther i v).sr = s.sr := rfl
@[simp] theorem State.setXOther_gbr (s : State) (i : BankReg) {w : Nat} (v : BitVec w) : (s.setXOther i v).gbr = s.gbr := rfl
@[simp] theorem State.setXOther_vbr (s : State) (i : BankReg) {w : Nat} (v : BitVec w) : (s.setXOther i v).vbr = s.vbr := rfl
@[simp] theorem State.setXOther_vbrWritten (s : State) (i : BankReg) {w : Nat} (v : BitVec w) : (s.setXOther i v).vbrWritten = s.vbrWritten := rfl
@[simp] theorem State.setXOther_ssr (s : State) (i : BankReg) {w : Nat} (v : BitVec w) : (s.setXOther i v).ssr = s.ssr := rfl
@[simp] theorem State.setXOther_spc (s : State) (i : BankReg) {w : Nat} (v : BitVec w) : (s.setXOther i v).spc = s.spc := rfl
@[simp] theorem State.setXOther_dbr (s : State) (i : BankReg) {w : Nat} (v : BitVec w) : (s.setXOther i v).dbr = s.dbr := rfl
@[simp] theorem State.setXOther_mach (s : State) (i : BankReg) {w : Nat} (v : BitVec w) : (s.setXOther i v).mach = s.mach := rfl
@[simp] theorem State.setXOther_macl (s : State) (i : BankReg) {w : Nat} (v : BitVec w) : (s.setXOther i v).macl = s.macl := rfl
@[simp] theorem State.setXOther_pr (s : State) (i : BankReg) {w : Nat} (v : BitVec w) : (s.setXOther i v).pr = s.pr := rfl
@[simp] theorem State.setXOther_fpscr (s : State) (i : BankReg) {w : Nat} (v : BitVec w) : (s.setXOther i v).fpscr = s.fpscr := rfl
@[simp] theorem State.setXOther_fpul (s : State) (i : BankReg) {w : Nat} (v : BitVec w) : (s.setXOther i v).fpul = s.fpul := rfl
@[simp] theorem State.setXOther_slot (s : State) (i : BankReg) {w : Nat} (v : BitVec w) : (s.setXOther i v).slot = s.slot := rfl
@[simp] theorem State.setXOther_xtag (s : State) (i : BankReg) {w : Nat} (v : BitVec w) : (s.setXOther i v).xtag = s.xtag := rfl
@[simp] theorem State.setXOther_asleep (s : State) (i : BankReg) {w : Nat} (v : BitVec w) : (s.setXOther i v).asleep = s.asleep := rfl
@[simp] theorem State.setXOther_mem (s : State) (i : BankReg) {w : Nat} (v : BitVec w) : (s.setXOther i v).mem = s.mem := rfl
@[simp] theorem State.setXOther_irqInput (s : State) (i : BankReg) {w : Nat} (v : BitVec w) : (s.setXOther i v).irqInput = s.irqInput := rfl
@[simp] theorem State.setXOther_params (s : State) (i : BankReg) {w : Nat} (v : BitVec w) : (s.setXOther i v).params = s.params := rfl
@[simp] theorem State.setXOther_t (s : State) (i : BankReg) {w : Nat} (v : BitVec w) : (s.setXOther i v).t = s.t := rfl
@[simp] theorem State.setXOther_satur (s : State) (i : BankReg) {w : Nat} (v : BitVec w) : (s.setXOther i v).satur = s.satur := rfl
@[simp] theorem State.setXOther_q (s : State) (i : BankReg) {w : Nat} (v : BitVec w) : (s.setXOther i v).q = s.q := rfl
@[simp] theorem State.setXOther_m (s : State) (i : BankReg) {w : Nat} (v : BitVec w) : (s.setXOther i v).m = s.m := rfl
@[simp] theorem State.setXOther_fd (s : State) (i : BankReg) {w : Nat} (v : BitVec w) : (s.setXOther i v).fd = s.fd := rfl
@[simp] theorem State.setXOther_bl (s : State) (i : BankReg) {w : Nat} (v : BitVec w) : (s.setXOther i v).bl = s.bl := rfl
@[simp] theorem State.setXOther_md (s : State) (i : BankReg) {w : Nat} (v : BitVec w) : (s.setXOther i v).md = s.md := rfl
@[simp] theorem State.setXOther_wide (s : State) (i : BankReg) {w : Nat} (v : BitVec w) : (s.setXOther i v).wide = s.wide := rfl
@[simp] theorem State.setXOther_W (s : State) (i : BankReg) {w : Nat} (v : BitVec w) : (s.setXOther i v).W = s.W := rfl
@[simp] theorem State.setXOther_dq (s : State) (i : BankReg) {w : Nat} (v : BitVec w) : (s.setXOther i v).dq = s.dq := rfl
@[simp] theorem State.setXOther_aq (s : State) (i : BankReg) {w : Nat} (v : BitVec w) : (s.setXOther i v).aq = s.aq := rfl
@[simp] theorem State.setXOther_bankBActive (s : State) (i : BankReg) {w : Nat} (v : BitVec w) : (s.setXOther i v).bankBActive = s.bankBActive := rfl
@[simp] theorem State.setXOther_localOrder (s : State) (i : BankReg) {w : Nat} (v : BitVec w) : (s.setXOther i v).localOrder = s.localOrder := rfl
@[simp] theorem State.setXOther_machineOrder (s : State) (i : BankReg) {w : Nat} (v : BitVec w) : (s.setXOther i v).machineOrder = s.machineOrder := rfl
@[simp] theorem State.setXOther_modeFlags (s : State) (i : BankReg) {w : Nat} (v : BitVec w) : (s.setXOther i v).modeFlags = s.modeFlags := rfl

@[simp] theorem State.putSR_bankA (s : State) (v : BitVec 64) : (s.putSR v).bankA = s.bankA := rfl
@[simp] theorem State.putSR_bankB (s : State) (v : BitVec 64) : (s.putSR v).bankB = s.bankB := rfl
@[simp] theorem State.putSR_rh (s : State) (v : BitVec 64) : (s.putSR v).rh = s.rh := rfl
@[simp] theorem State.putSR_pc (s : State) (v : BitVec 64) : (s.putSR v).pc = s.pc := rfl
@[simp] theorem State.putSR_gbr (s : State) (v : BitVec 64) : (s.putSR v).gbr = s.gbr := rfl
@[simp] theorem State.putSR_vbr (s : State) (v : BitVec 64) : (s.putSR v).vbr = s.vbr := rfl
@[simp] theorem State.putSR_vbrWritten (s : State) (v : BitVec 64) : (s.putSR v).vbrWritten = s.vbrWritten := rfl
@[simp] theorem State.putSR_ssr (s : State) (v : BitVec 64) : (s.putSR v).ssr = s.ssr := rfl
@[simp] theorem State.putSR_spc (s : State) (v : BitVec 64) : (s.putSR v).spc = s.spc := rfl
@[simp] theorem State.putSR_dbr (s : State) (v : BitVec 64) : (s.putSR v).dbr = s.dbr := rfl
@[simp] theorem State.putSR_mach (s : State) (v : BitVec 64) : (s.putSR v).mach = s.mach := rfl
@[simp] theorem State.putSR_macl (s : State) (v : BitVec 64) : (s.putSR v).macl = s.macl := rfl
@[simp] theorem State.putSR_pr (s : State) (v : BitVec 64) : (s.putSR v).pr = s.pr := rfl
@[simp] theorem State.putSR_fpscr (s : State) (v : BitVec 64) : (s.putSR v).fpscr = s.fpscr := rfl
@[simp] theorem State.putSR_fpul (s : State) (v : BitVec 64) : (s.putSR v).fpul = s.fpul := rfl
@[simp] theorem State.putSR_slot (s : State) (v : BitVec 64) : (s.putSR v).slot = s.slot := rfl
@[simp] theorem State.putSR_xtag (s : State) (v : BitVec 64) : (s.putSR v).xtag = s.xtag := rfl
@[simp] theorem State.putSR_asleep (s : State) (v : BitVec 64) : (s.putSR v).asleep = s.asleep := rfl
@[simp] theorem State.putSR_mem (s : State) (v : BitVec 64) : (s.putSR v).mem = s.mem := rfl
@[simp] theorem State.putSR_irqInput (s : State) (v : BitVec 64) : (s.putSR v).irqInput = s.irqInput := rfl
@[simp] theorem State.putSR_params (s : State) (v : BitVec 64) : (s.putSR v).params = s.params := rfl

@[simp] theorem State.putFreg_bankA (s : State) (i : FReg) (r : Reg64) : (s.putFreg i r).bankA = s.bankA := rfl
@[simp] theorem State.putFreg_bankB (s : State) (i : FReg) (r : Reg64) : (s.putFreg i r).bankB = s.bankB := rfl
@[simp] theorem State.putFreg_rh (s : State) (i : FReg) (r : Reg64) : (s.putFreg i r).rh = s.rh := rfl
@[simp] theorem State.putFreg_pc (s : State) (i : FReg) (r : Reg64) : (s.putFreg i r).pc = s.pc := rfl
@[simp] theorem State.putFreg_sr (s : State) (i : FReg) (r : Reg64) : (s.putFreg i r).sr = s.sr := rfl
@[simp] theorem State.putFreg_gbr (s : State) (i : FReg) (r : Reg64) : (s.putFreg i r).gbr = s.gbr := rfl
@[simp] theorem State.putFreg_vbr (s : State) (i : FReg) (r : Reg64) : (s.putFreg i r).vbr = s.vbr := rfl
@[simp] theorem State.putFreg_vbrWritten (s : State) (i : FReg) (r : Reg64) : (s.putFreg i r).vbrWritten = s.vbrWritten := rfl
@[simp] theorem State.putFreg_ssr (s : State) (i : FReg) (r : Reg64) : (s.putFreg i r).ssr = s.ssr := rfl
@[simp] theorem State.putFreg_spc (s : State) (i : FReg) (r : Reg64) : (s.putFreg i r).spc = s.spc := rfl
@[simp] theorem State.putFreg_dbr (s : State) (i : FReg) (r : Reg64) : (s.putFreg i r).dbr = s.dbr := rfl
@[simp] theorem State.putFreg_mach (s : State) (i : FReg) (r : Reg64) : (s.putFreg i r).mach = s.mach := rfl
@[simp] theorem State.putFreg_macl (s : State) (i : FReg) (r : Reg64) : (s.putFreg i r).macl = s.macl := rfl
@[simp] theorem State.putFreg_pr (s : State) (i : FReg) (r : Reg64) : (s.putFreg i r).pr = s.pr := rfl
@[simp] theorem State.putFreg_fpscr (s : State) (i : FReg) (r : Reg64) : (s.putFreg i r).fpscr = s.fpscr := rfl
@[simp] theorem State.putFreg_fpul (s : State) (i : FReg) (r : Reg64) : (s.putFreg i r).fpul = s.fpul := rfl
@[simp] theorem State.putFreg_slot (s : State) (i : FReg) (r : Reg64) : (s.putFreg i r).slot = s.slot := rfl
@[simp] theorem State.putFreg_xtag (s : State) (i : FReg) (r : Reg64) : (s.putFreg i r).xtag = s.xtag := rfl
@[simp] theorem State.putFreg_asleep (s : State) (i : FReg) (r : Reg64) : (s.putFreg i r).asleep = s.asleep := rfl
@[simp] theorem State.putFreg_mem (s : State) (i : FReg) (r : Reg64) : (s.putFreg i r).mem = s.mem := rfl
@[simp] theorem State.putFreg_irqInput (s : State) (i : FReg) (r : Reg64) : (s.putFreg i r).irqInput = s.irqInput := rfl
@[simp] theorem State.putFreg_draws (s : State) (i : FReg) (r : Reg64) : (s.putFreg i r).draws = s.draws := rfl
@[simp] theorem State.putFreg_params (s : State) (i : FReg) (r : Reg64) : (s.putFreg i r).params = s.params := rfl
@[simp] theorem State.putFreg_t (s : State) (i : FReg) (r : Reg64) : (s.putFreg i r).t = s.t := rfl
@[simp] theorem State.putFreg_satur (s : State) (i : FReg) (r : Reg64) : (s.putFreg i r).satur = s.satur := rfl
@[simp] theorem State.putFreg_q (s : State) (i : FReg) (r : Reg64) : (s.putFreg i r).q = s.q := rfl
@[simp] theorem State.putFreg_m (s : State) (i : FReg) (r : Reg64) : (s.putFreg i r).m = s.m := rfl
@[simp] theorem State.putFreg_fd (s : State) (i : FReg) (r : Reg64) : (s.putFreg i r).fd = s.fd := rfl
@[simp] theorem State.putFreg_bl (s : State) (i : FReg) (r : Reg64) : (s.putFreg i r).bl = s.bl := rfl
@[simp] theorem State.putFreg_md (s : State) (i : FReg) (r : Reg64) : (s.putFreg i r).md = s.md := rfl
@[simp] theorem State.putFreg_wide (s : State) (i : FReg) (r : Reg64) : (s.putFreg i r).wide = s.wide := rfl
@[simp] theorem State.putFreg_W (s : State) (i : FReg) (r : Reg64) : (s.putFreg i r).W = s.W := rfl
@[simp] theorem State.putFreg_dq (s : State) (i : FReg) (r : Reg64) : (s.putFreg i r).dq = s.dq := rfl
@[simp] theorem State.putFreg_aq (s : State) (i : FReg) (r : Reg64) : (s.putFreg i r).aq = s.aq := rfl
@[simp] theorem State.putFreg_bankBActive (s : State) (i : FReg) (r : Reg64) : (s.putFreg i r).bankBActive = s.bankBActive := rfl
@[simp] theorem State.putFreg_localOrder (s : State) (i : FReg) (r : Reg64) : (s.putFreg i r).localOrder = s.localOrder := rfl
@[simp] theorem State.putFreg_machineOrder (s : State) (i : FReg) (r : Reg64) : (s.putFreg i r).machineOrder = s.machineOrder := rfl
@[simp] theorem State.putFreg_modeFlags (s : State) (i : FReg) (r : Reg64) : (s.putFreg i r).modeFlags = s.modeFlags := rfl

@[simp] theorem State.putF32_bankA (s : State) (i : FReg) (v : BitVec 32) : (s.putF32 i v).bankA = s.bankA := rfl
@[simp] theorem State.putF32_bankB (s : State) (i : FReg) (v : BitVec 32) : (s.putF32 i v).bankB = s.bankB := rfl
@[simp] theorem State.putF32_rh (s : State) (i : FReg) (v : BitVec 32) : (s.putF32 i v).rh = s.rh := rfl
@[simp] theorem State.putF32_pc (s : State) (i : FReg) (v : BitVec 32) : (s.putF32 i v).pc = s.pc := rfl
@[simp] theorem State.putF32_sr (s : State) (i : FReg) (v : BitVec 32) : (s.putF32 i v).sr = s.sr := rfl
@[simp] theorem State.putF32_gbr (s : State) (i : FReg) (v : BitVec 32) : (s.putF32 i v).gbr = s.gbr := rfl
@[simp] theorem State.putF32_vbr (s : State) (i : FReg) (v : BitVec 32) : (s.putF32 i v).vbr = s.vbr := rfl
@[simp] theorem State.putF32_vbrWritten (s : State) (i : FReg) (v : BitVec 32) : (s.putF32 i v).vbrWritten = s.vbrWritten := rfl
@[simp] theorem State.putF32_ssr (s : State) (i : FReg) (v : BitVec 32) : (s.putF32 i v).ssr = s.ssr := rfl
@[simp] theorem State.putF32_spc (s : State) (i : FReg) (v : BitVec 32) : (s.putF32 i v).spc = s.spc := rfl
@[simp] theorem State.putF32_dbr (s : State) (i : FReg) (v : BitVec 32) : (s.putF32 i v).dbr = s.dbr := rfl
@[simp] theorem State.putF32_mach (s : State) (i : FReg) (v : BitVec 32) : (s.putF32 i v).mach = s.mach := rfl
@[simp] theorem State.putF32_macl (s : State) (i : FReg) (v : BitVec 32) : (s.putF32 i v).macl = s.macl := rfl
@[simp] theorem State.putF32_pr (s : State) (i : FReg) (v : BitVec 32) : (s.putF32 i v).pr = s.pr := rfl
@[simp] theorem State.putF32_fpscr (s : State) (i : FReg) (v : BitVec 32) : (s.putF32 i v).fpscr = s.fpscr := rfl
@[simp] theorem State.putF32_fpul (s : State) (i : FReg) (v : BitVec 32) : (s.putF32 i v).fpul = s.fpul := rfl
@[simp] theorem State.putF32_slot (s : State) (i : FReg) (v : BitVec 32) : (s.putF32 i v).slot = s.slot := rfl
@[simp] theorem State.putF32_xtag (s : State) (i : FReg) (v : BitVec 32) : (s.putF32 i v).xtag = s.xtag := rfl
@[simp] theorem State.putF32_asleep (s : State) (i : FReg) (v : BitVec 32) : (s.putF32 i v).asleep = s.asleep := rfl
@[simp] theorem State.putF32_mem (s : State) (i : FReg) (v : BitVec 32) : (s.putF32 i v).mem = s.mem := rfl
@[simp] theorem State.putF32_irqInput (s : State) (i : FReg) (v : BitVec 32) : (s.putF32 i v).irqInput = s.irqInput := rfl
@[simp] theorem State.putF32_draws (s : State) (i : FReg) (v : BitVec 32) : (s.putF32 i v).draws = s.draws := rfl
@[simp] theorem State.putF32_params (s : State) (i : FReg) (v : BitVec 32) : (s.putF32 i v).params = s.params := rfl
@[simp] theorem State.putF32_t (s : State) (i : FReg) (v : BitVec 32) : (s.putF32 i v).t = s.t := rfl
@[simp] theorem State.putF32_satur (s : State) (i : FReg) (v : BitVec 32) : (s.putF32 i v).satur = s.satur := rfl
@[simp] theorem State.putF32_q (s : State) (i : FReg) (v : BitVec 32) : (s.putF32 i v).q = s.q := rfl
@[simp] theorem State.putF32_m (s : State) (i : FReg) (v : BitVec 32) : (s.putF32 i v).m = s.m := rfl
@[simp] theorem State.putF32_fd (s : State) (i : FReg) (v : BitVec 32) : (s.putF32 i v).fd = s.fd := rfl
@[simp] theorem State.putF32_bl (s : State) (i : FReg) (v : BitVec 32) : (s.putF32 i v).bl = s.bl := rfl
@[simp] theorem State.putF32_md (s : State) (i : FReg) (v : BitVec 32) : (s.putF32 i v).md = s.md := rfl
@[simp] theorem State.putF32_wide (s : State) (i : FReg) (v : BitVec 32) : (s.putF32 i v).wide = s.wide := rfl
@[simp] theorem State.putF32_W (s : State) (i : FReg) (v : BitVec 32) : (s.putF32 i v).W = s.W := rfl
@[simp] theorem State.putF32_dq (s : State) (i : FReg) (v : BitVec 32) : (s.putF32 i v).dq = s.dq := rfl
@[simp] theorem State.putF32_aq (s : State) (i : FReg) (v : BitVec 32) : (s.putF32 i v).aq = s.aq := rfl
@[simp] theorem State.putF32_bankBActive (s : State) (i : FReg) (v : BitVec 32) : (s.putF32 i v).bankBActive = s.bankBActive := rfl
@[simp] theorem State.putF32_localOrder (s : State) (i : FReg) (v : BitVec 32) : (s.putF32 i v).localOrder = s.localOrder := rfl
@[simp] theorem State.putF32_machineOrder (s : State) (i : FReg) (v : BitVec 32) : (s.putF32 i v).machineOrder = s.machineOrder := rfl
@[simp] theorem State.putF32_modeFlags (s : State) (i : FReg) (v : BitVec 32) : (s.putF32 i v).modeFlags = s.modeFlags := rfl

@[simp] theorem State.setF32_bankA (s : State) (i : FReg) (v : BitVec 32) : (s.setF32 i v).bankA = s.bankA := rfl
@[simp] theorem State.setF32_bankB (s : State) (i : FReg) (v : BitVec 32) : (s.setF32 i v).bankB = s.bankB := rfl
@[simp] theorem State.setF32_rh (s : State) (i : FReg) (v : BitVec 32) : (s.setF32 i v).rh = s.rh := rfl
@[simp] theorem State.setF32_pc (s : State) (i : FReg) (v : BitVec 32) : (s.setF32 i v).pc = s.pc := rfl
@[simp] theorem State.setF32_sr (s : State) (i : FReg) (v : BitVec 32) : (s.setF32 i v).sr = s.sr := rfl
@[simp] theorem State.setF32_gbr (s : State) (i : FReg) (v : BitVec 32) : (s.setF32 i v).gbr = s.gbr := rfl
@[simp] theorem State.setF32_vbr (s : State) (i : FReg) (v : BitVec 32) : (s.setF32 i v).vbr = s.vbr := rfl
@[simp] theorem State.setF32_vbrWritten (s : State) (i : FReg) (v : BitVec 32) : (s.setF32 i v).vbrWritten = s.vbrWritten := rfl
@[simp] theorem State.setF32_ssr (s : State) (i : FReg) (v : BitVec 32) : (s.setF32 i v).ssr = s.ssr := rfl
@[simp] theorem State.setF32_spc (s : State) (i : FReg) (v : BitVec 32) : (s.setF32 i v).spc = s.spc := rfl
@[simp] theorem State.setF32_dbr (s : State) (i : FReg) (v : BitVec 32) : (s.setF32 i v).dbr = s.dbr := rfl
@[simp] theorem State.setF32_mach (s : State) (i : FReg) (v : BitVec 32) : (s.setF32 i v).mach = s.mach := rfl
@[simp] theorem State.setF32_macl (s : State) (i : FReg) (v : BitVec 32) : (s.setF32 i v).macl = s.macl := rfl
@[simp] theorem State.setF32_pr (s : State) (i : FReg) (v : BitVec 32) : (s.setF32 i v).pr = s.pr := rfl
@[simp] theorem State.setF32_fpscr (s : State) (i : FReg) (v : BitVec 32) : (s.setF32 i v).fpscr = s.fpscr := rfl
@[simp] theorem State.setF32_fpul (s : State) (i : FReg) (v : BitVec 32) : (s.setF32 i v).fpul = s.fpul := rfl
@[simp] theorem State.setF32_slot (s : State) (i : FReg) (v : BitVec 32) : (s.setF32 i v).slot = s.slot := rfl
@[simp] theorem State.setF32_xtag (s : State) (i : FReg) (v : BitVec 32) : (s.setF32 i v).xtag = s.xtag := rfl
@[simp] theorem State.setF32_asleep (s : State) (i : FReg) (v : BitVec 32) : (s.setF32 i v).asleep = s.asleep := rfl
@[simp] theorem State.setF32_mem (s : State) (i : FReg) (v : BitVec 32) : (s.setF32 i v).mem = s.mem := rfl
@[simp] theorem State.setF32_irqInput (s : State) (i : FReg) (v : BitVec 32) : (s.setF32 i v).irqInput = s.irqInput := rfl
@[simp] theorem State.setF32_params (s : State) (i : FReg) (v : BitVec 32) : (s.setF32 i v).params = s.params := rfl
@[simp] theorem State.setF32_t (s : State) (i : FReg) (v : BitVec 32) : (s.setF32 i v).t = s.t := rfl
@[simp] theorem State.setF32_satur (s : State) (i : FReg) (v : BitVec 32) : (s.setF32 i v).satur = s.satur := rfl
@[simp] theorem State.setF32_q (s : State) (i : FReg) (v : BitVec 32) : (s.setF32 i v).q = s.q := rfl
@[simp] theorem State.setF32_m (s : State) (i : FReg) (v : BitVec 32) : (s.setF32 i v).m = s.m := rfl
@[simp] theorem State.setF32_fd (s : State) (i : FReg) (v : BitVec 32) : (s.setF32 i v).fd = s.fd := rfl
@[simp] theorem State.setF32_bl (s : State) (i : FReg) (v : BitVec 32) : (s.setF32 i v).bl = s.bl := rfl
@[simp] theorem State.setF32_md (s : State) (i : FReg) (v : BitVec 32) : (s.setF32 i v).md = s.md := rfl
@[simp] theorem State.setF32_wide (s : State) (i : FReg) (v : BitVec 32) : (s.setF32 i v).wide = s.wide := rfl
@[simp] theorem State.setF32_W (s : State) (i : FReg) (v : BitVec 32) : (s.setF32 i v).W = s.W := rfl
@[simp] theorem State.setF32_dq (s : State) (i : FReg) (v : BitVec 32) : (s.setF32 i v).dq = s.dq := rfl
@[simp] theorem State.setF32_aq (s : State) (i : FReg) (v : BitVec 32) : (s.setF32 i v).aq = s.aq := rfl
@[simp] theorem State.setF32_bankBActive (s : State) (i : FReg) (v : BitVec 32) : (s.setF32 i v).bankBActive = s.bankBActive := rfl
@[simp] theorem State.setF32_localOrder (s : State) (i : FReg) (v : BitVec 32) : (s.setF32 i v).localOrder = s.localOrder := rfl
@[simp] theorem State.setF32_machineOrder (s : State) (i : FReg) (v : BitVec 32) : (s.setF32 i v).machineOrder = s.machineOrder := rfl
@[simp] theorem State.setF32_modeFlags (s : State) (i : FReg) (v : BitVec 32) : (s.setF32 i v).modeFlags = s.modeFlags := rfl

@[simp] theorem State.setF64_bankA (s : State) (i : FReg) (v : BitVec 64) : (s.setF64 i v).bankA = s.bankA := rfl
@[simp] theorem State.setF64_bankB (s : State) (i : FReg) (v : BitVec 64) : (s.setF64 i v).bankB = s.bankB := rfl
@[simp] theorem State.setF64_rh (s : State) (i : FReg) (v : BitVec 64) : (s.setF64 i v).rh = s.rh := rfl
@[simp] theorem State.setF64_pc (s : State) (i : FReg) (v : BitVec 64) : (s.setF64 i v).pc = s.pc := rfl
@[simp] theorem State.setF64_sr (s : State) (i : FReg) (v : BitVec 64) : (s.setF64 i v).sr = s.sr := rfl
@[simp] theorem State.setF64_gbr (s : State) (i : FReg) (v : BitVec 64) : (s.setF64 i v).gbr = s.gbr := rfl
@[simp] theorem State.setF64_vbr (s : State) (i : FReg) (v : BitVec 64) : (s.setF64 i v).vbr = s.vbr := rfl
@[simp] theorem State.setF64_vbrWritten (s : State) (i : FReg) (v : BitVec 64) : (s.setF64 i v).vbrWritten = s.vbrWritten := rfl
@[simp] theorem State.setF64_ssr (s : State) (i : FReg) (v : BitVec 64) : (s.setF64 i v).ssr = s.ssr := rfl
@[simp] theorem State.setF64_spc (s : State) (i : FReg) (v : BitVec 64) : (s.setF64 i v).spc = s.spc := rfl
@[simp] theorem State.setF64_dbr (s : State) (i : FReg) (v : BitVec 64) : (s.setF64 i v).dbr = s.dbr := rfl
@[simp] theorem State.setF64_mach (s : State) (i : FReg) (v : BitVec 64) : (s.setF64 i v).mach = s.mach := rfl
@[simp] theorem State.setF64_macl (s : State) (i : FReg) (v : BitVec 64) : (s.setF64 i v).macl = s.macl := rfl
@[simp] theorem State.setF64_pr (s : State) (i : FReg) (v : BitVec 64) : (s.setF64 i v).pr = s.pr := rfl
@[simp] theorem State.setF64_fpscr (s : State) (i : FReg) (v : BitVec 64) : (s.setF64 i v).fpscr = s.fpscr := rfl
@[simp] theorem State.setF64_fpul (s : State) (i : FReg) (v : BitVec 64) : (s.setF64 i v).fpul = s.fpul := rfl
@[simp] theorem State.setF64_slot (s : State) (i : FReg) (v : BitVec 64) : (s.setF64 i v).slot = s.slot := rfl
@[simp] theorem State.setF64_xtag (s : State) (i : FReg) (v : BitVec 64) : (s.setF64 i v).xtag = s.xtag := rfl
@[simp] theorem State.setF64_asleep (s : State) (i : FReg) (v : BitVec 64) : (s.setF64 i v).asleep = s.asleep := rfl
@[simp] theorem State.setF64_mem (s : State) (i : FReg) (v : BitVec 64) : (s.setF64 i v).mem = s.mem := rfl
@[simp] theorem State.setF64_irqInput (s : State) (i : FReg) (v : BitVec 64) : (s.setF64 i v).irqInput = s.irqInput := rfl
@[simp] theorem State.setF64_draws (s : State) (i : FReg) (v : BitVec 64) : (s.setF64 i v).draws = s.draws := rfl
@[simp] theorem State.setF64_params (s : State) (i : FReg) (v : BitVec 64) : (s.setF64 i v).params = s.params := rfl
@[simp] theorem State.setF64_t (s : State) (i : FReg) (v : BitVec 64) : (s.setF64 i v).t = s.t := rfl
@[simp] theorem State.setF64_satur (s : State) (i : FReg) (v : BitVec 64) : (s.setF64 i v).satur = s.satur := rfl
@[simp] theorem State.setF64_q (s : State) (i : FReg) (v : BitVec 64) : (s.setF64 i v).q = s.q := rfl
@[simp] theorem State.setF64_m (s : State) (i : FReg) (v : BitVec 64) : (s.setF64 i v).m = s.m := rfl
@[simp] theorem State.setF64_fd (s : State) (i : FReg) (v : BitVec 64) : (s.setF64 i v).fd = s.fd := rfl
@[simp] theorem State.setF64_bl (s : State) (i : FReg) (v : BitVec 64) : (s.setF64 i v).bl = s.bl := rfl
@[simp] theorem State.setF64_md (s : State) (i : FReg) (v : BitVec 64) : (s.setF64 i v).md = s.md := rfl
@[simp] theorem State.setF64_wide (s : State) (i : FReg) (v : BitVec 64) : (s.setF64 i v).wide = s.wide := rfl
@[simp] theorem State.setF64_W (s : State) (i : FReg) (v : BitVec 64) : (s.setF64 i v).W = s.W := rfl
@[simp] theorem State.setF64_dq (s : State) (i : FReg) (v : BitVec 64) : (s.setF64 i v).dq = s.dq := rfl
@[simp] theorem State.setF64_aq (s : State) (i : FReg) (v : BitVec 64) : (s.setF64 i v).aq = s.aq := rfl
@[simp] theorem State.setF64_bankBActive (s : State) (i : FReg) (v : BitVec 64) : (s.setF64 i v).bankBActive = s.bankBActive := rfl
@[simp] theorem State.setF64_localOrder (s : State) (i : FReg) (v : BitVec 64) : (s.setF64 i v).localOrder = s.localOrder := rfl
@[simp] theorem State.setF64_machineOrder (s : State) (i : FReg) (v : BitVec 64) : (s.setF64 i v).machineOrder = s.machineOrder := rfl
@[simp] theorem State.setF64_modeFlags (s : State) (i : FReg) (v : BitVec 64) : (s.setF64 i v).modeFlags = s.modeFlags := rfl

@[simp] theorem State.putFpulLow_bankA (s : State) (o : OpenWidth) (v : BitVec 64) : (s.putFpulLow o v).bankA = s.bankA := rfl
@[simp] theorem State.putFpulLow_bankB (s : State) (o : OpenWidth) (v : BitVec 64) : (s.putFpulLow o v).bankB = s.bankB := rfl
@[simp] theorem State.putFpulLow_rh (s : State) (o : OpenWidth) (v : BitVec 64) : (s.putFpulLow o v).rh = s.rh := rfl
@[simp] theorem State.putFpulLow_fr (s : State) (o : OpenWidth) (v : BitVec 64) : (s.putFpulLow o v).fr = s.fr := rfl
@[simp] theorem State.putFpulLow_pc (s : State) (o : OpenWidth) (v : BitVec 64) : (s.putFpulLow o v).pc = s.pc := rfl
@[simp] theorem State.putFpulLow_sr (s : State) (o : OpenWidth) (v : BitVec 64) : (s.putFpulLow o v).sr = s.sr := rfl
@[simp] theorem State.putFpulLow_gbr (s : State) (o : OpenWidth) (v : BitVec 64) : (s.putFpulLow o v).gbr = s.gbr := rfl
@[simp] theorem State.putFpulLow_vbr (s : State) (o : OpenWidth) (v : BitVec 64) : (s.putFpulLow o v).vbr = s.vbr := rfl
@[simp] theorem State.putFpulLow_vbrWritten (s : State) (o : OpenWidth) (v : BitVec 64) : (s.putFpulLow o v).vbrWritten = s.vbrWritten := rfl
@[simp] theorem State.putFpulLow_ssr (s : State) (o : OpenWidth) (v : BitVec 64) : (s.putFpulLow o v).ssr = s.ssr := rfl
@[simp] theorem State.putFpulLow_spc (s : State) (o : OpenWidth) (v : BitVec 64) : (s.putFpulLow o v).spc = s.spc := rfl
@[simp] theorem State.putFpulLow_dbr (s : State) (o : OpenWidth) (v : BitVec 64) : (s.putFpulLow o v).dbr = s.dbr := rfl
@[simp] theorem State.putFpulLow_mach (s : State) (o : OpenWidth) (v : BitVec 64) : (s.putFpulLow o v).mach = s.mach := rfl
@[simp] theorem State.putFpulLow_macl (s : State) (o : OpenWidth) (v : BitVec 64) : (s.putFpulLow o v).macl = s.macl := rfl
@[simp] theorem State.putFpulLow_pr (s : State) (o : OpenWidth) (v : BitVec 64) : (s.putFpulLow o v).pr = s.pr := rfl
@[simp] theorem State.putFpulLow_fpscr (s : State) (o : OpenWidth) (v : BitVec 64) : (s.putFpulLow o v).fpscr = s.fpscr := rfl
@[simp] theorem State.putFpulLow_slot (s : State) (o : OpenWidth) (v : BitVec 64) : (s.putFpulLow o v).slot = s.slot := rfl
@[simp] theorem State.putFpulLow_xtag (s : State) (o : OpenWidth) (v : BitVec 64) : (s.putFpulLow o v).xtag = s.xtag := rfl
@[simp] theorem State.putFpulLow_asleep (s : State) (o : OpenWidth) (v : BitVec 64) : (s.putFpulLow o v).asleep = s.asleep := rfl
@[simp] theorem State.putFpulLow_mem (s : State) (o : OpenWidth) (v : BitVec 64) : (s.putFpulLow o v).mem = s.mem := rfl
@[simp] theorem State.putFpulLow_irqInput (s : State) (o : OpenWidth) (v : BitVec 64) : (s.putFpulLow o v).irqInput = s.irqInput := rfl
@[simp] theorem State.putFpulLow_draws (s : State) (o : OpenWidth) (v : BitVec 64) : (s.putFpulLow o v).draws = s.draws := rfl
@[simp] theorem State.putFpulLow_params (s : State) (o : OpenWidth) (v : BitVec 64) : (s.putFpulLow o v).params = s.params := rfl
@[simp] theorem State.putFpulLow_t (s : State) (o : OpenWidth) (v : BitVec 64) : (s.putFpulLow o v).t = s.t := rfl
@[simp] theorem State.putFpulLow_satur (s : State) (o : OpenWidth) (v : BitVec 64) : (s.putFpulLow o v).satur = s.satur := rfl
@[simp] theorem State.putFpulLow_q (s : State) (o : OpenWidth) (v : BitVec 64) : (s.putFpulLow o v).q = s.q := rfl
@[simp] theorem State.putFpulLow_m (s : State) (o : OpenWidth) (v : BitVec 64) : (s.putFpulLow o v).m = s.m := rfl
@[simp] theorem State.putFpulLow_fd (s : State) (o : OpenWidth) (v : BitVec 64) : (s.putFpulLow o v).fd = s.fd := rfl
@[simp] theorem State.putFpulLow_bl (s : State) (o : OpenWidth) (v : BitVec 64) : (s.putFpulLow o v).bl = s.bl := rfl
@[simp] theorem State.putFpulLow_md (s : State) (o : OpenWidth) (v : BitVec 64) : (s.putFpulLow o v).md = s.md := rfl
@[simp] theorem State.putFpulLow_wide (s : State) (o : OpenWidth) (v : BitVec 64) : (s.putFpulLow o v).wide = s.wide := rfl
@[simp] theorem State.putFpulLow_W (s : State) (o : OpenWidth) (v : BitVec 64) : (s.putFpulLow o v).W = s.W := rfl
@[simp] theorem State.putFpulLow_dq (s : State) (o : OpenWidth) (v : BitVec 64) : (s.putFpulLow o v).dq = s.dq := rfl
@[simp] theorem State.putFpulLow_aq (s : State) (o : OpenWidth) (v : BitVec 64) : (s.putFpulLow o v).aq = s.aq := rfl
@[simp] theorem State.putFpulLow_bankBActive (s : State) (o : OpenWidth) (v : BitVec 64) : (s.putFpulLow o v).bankBActive = s.bankBActive := rfl
@[simp] theorem State.putFpulLow_localOrder (s : State) (o : OpenWidth) (v : BitVec 64) : (s.putFpulLow o v).localOrder = s.localOrder := rfl
@[simp] theorem State.putFpulLow_machineOrder (s : State) (o : OpenWidth) (v : BitVec 64) : (s.putFpulLow o v).machineOrder = s.machineOrder := rfl
@[simp] theorem State.putFpulLow_modeFlags (s : State) (o : OpenWidth) (v : BitVec 64) : (s.putFpulLow o v).modeFlags = s.modeFlags := rfl

@[simp] theorem State.putBytes_bankA (s : State) (o : ByteOrder) (a : BitVec 64) (count v : Nat) : (s.putBytes o a count v).bankA = s.bankA := rfl
@[simp] theorem State.putBytes_bankB (s : State) (o : ByteOrder) (a : BitVec 64) (count v : Nat) : (s.putBytes o a count v).bankB = s.bankB := rfl
@[simp] theorem State.putBytes_rh (s : State) (o : ByteOrder) (a : BitVec 64) (count v : Nat) : (s.putBytes o a count v).rh = s.rh := rfl
@[simp] theorem State.putBytes_fr (s : State) (o : ByteOrder) (a : BitVec 64) (count v : Nat) : (s.putBytes o a count v).fr = s.fr := rfl
@[simp] theorem State.putBytes_pc (s : State) (o : ByteOrder) (a : BitVec 64) (count v : Nat) : (s.putBytes o a count v).pc = s.pc := rfl
@[simp] theorem State.putBytes_sr (s : State) (o : ByteOrder) (a : BitVec 64) (count v : Nat) : (s.putBytes o a count v).sr = s.sr := rfl
@[simp] theorem State.putBytes_gbr (s : State) (o : ByteOrder) (a : BitVec 64) (count v : Nat) : (s.putBytes o a count v).gbr = s.gbr := rfl
@[simp] theorem State.putBytes_vbr (s : State) (o : ByteOrder) (a : BitVec 64) (count v : Nat) : (s.putBytes o a count v).vbr = s.vbr := rfl
@[simp] theorem State.putBytes_vbrWritten (s : State) (o : ByteOrder) (a : BitVec 64) (count v : Nat) : (s.putBytes o a count v).vbrWritten = s.vbrWritten := rfl
@[simp] theorem State.putBytes_ssr (s : State) (o : ByteOrder) (a : BitVec 64) (count v : Nat) : (s.putBytes o a count v).ssr = s.ssr := rfl
@[simp] theorem State.putBytes_spc (s : State) (o : ByteOrder) (a : BitVec 64) (count v : Nat) : (s.putBytes o a count v).spc = s.spc := rfl
@[simp] theorem State.putBytes_dbr (s : State) (o : ByteOrder) (a : BitVec 64) (count v : Nat) : (s.putBytes o a count v).dbr = s.dbr := rfl
@[simp] theorem State.putBytes_mach (s : State) (o : ByteOrder) (a : BitVec 64) (count v : Nat) : (s.putBytes o a count v).mach = s.mach := rfl
@[simp] theorem State.putBytes_macl (s : State) (o : ByteOrder) (a : BitVec 64) (count v : Nat) : (s.putBytes o a count v).macl = s.macl := rfl
@[simp] theorem State.putBytes_pr (s : State) (o : ByteOrder) (a : BitVec 64) (count v : Nat) : (s.putBytes o a count v).pr = s.pr := rfl
@[simp] theorem State.putBytes_fpscr (s : State) (o : ByteOrder) (a : BitVec 64) (count v : Nat) : (s.putBytes o a count v).fpscr = s.fpscr := rfl
@[simp] theorem State.putBytes_fpul (s : State) (o : ByteOrder) (a : BitVec 64) (count v : Nat) : (s.putBytes o a count v).fpul = s.fpul := rfl
@[simp] theorem State.putBytes_slot (s : State) (o : ByteOrder) (a : BitVec 64) (count v : Nat) : (s.putBytes o a count v).slot = s.slot := rfl
@[simp] theorem State.putBytes_asleep (s : State) (o : ByteOrder) (a : BitVec 64) (count v : Nat) : (s.putBytes o a count v).asleep = s.asleep := rfl
@[simp] theorem State.putBytes_irqInput (s : State) (o : ByteOrder) (a : BitVec 64) (count v : Nat) : (s.putBytes o a count v).irqInput = s.irqInput := rfl
@[simp] theorem State.putBytes_draws (s : State) (o : ByteOrder) (a : BitVec 64) (count v : Nat) : (s.putBytes o a count v).draws = s.draws := rfl
@[simp] theorem State.putBytes_params (s : State) (o : ByteOrder) (a : BitVec 64) (count v : Nat) : (s.putBytes o a count v).params = s.params := rfl
@[simp] theorem State.putBytes_t (s : State) (o : ByteOrder) (a : BitVec 64) (count v : Nat) : (s.putBytes o a count v).t = s.t := rfl
@[simp] theorem State.putBytes_satur (s : State) (o : ByteOrder) (a : BitVec 64) (count v : Nat) : (s.putBytes o a count v).satur = s.satur := rfl
@[simp] theorem State.putBytes_q (s : State) (o : ByteOrder) (a : BitVec 64) (count v : Nat) : (s.putBytes o a count v).q = s.q := rfl
@[simp] theorem State.putBytes_m (s : State) (o : ByteOrder) (a : BitVec 64) (count v : Nat) : (s.putBytes o a count v).m = s.m := rfl
@[simp] theorem State.putBytes_fd (s : State) (o : ByteOrder) (a : BitVec 64) (count v : Nat) : (s.putBytes o a count v).fd = s.fd := rfl
@[simp] theorem State.putBytes_bl (s : State) (o : ByteOrder) (a : BitVec 64) (count v : Nat) : (s.putBytes o a count v).bl = s.bl := rfl
@[simp] theorem State.putBytes_md (s : State) (o : ByteOrder) (a : BitVec 64) (count v : Nat) : (s.putBytes o a count v).md = s.md := rfl
@[simp] theorem State.putBytes_wide (s : State) (o : ByteOrder) (a : BitVec 64) (count v : Nat) : (s.putBytes o a count v).wide = s.wide := rfl
@[simp] theorem State.putBytes_W (s : State) (o : ByteOrder) (a : BitVec 64) (count v : Nat) : (s.putBytes o a count v).W = s.W := rfl
@[simp] theorem State.putBytes_dq (s : State) (o : ByteOrder) (a : BitVec 64) (count v : Nat) : (s.putBytes o a count v).dq = s.dq := rfl
@[simp] theorem State.putBytes_aq (s : State) (o : ByteOrder) (a : BitVec 64) (count v : Nat) : (s.putBytes o a count v).aq = s.aq := rfl
@[simp] theorem State.putBytes_bankBActive (s : State) (o : ByteOrder) (a : BitVec 64) (count v : Nat) : (s.putBytes o a count v).bankBActive = s.bankBActive := rfl
@[simp] theorem State.putBytes_localOrder (s : State) (o : ByteOrder) (a : BitVec 64) (count v : Nat) : (s.putBytes o a count v).localOrder = s.localOrder := rfl
@[simp] theorem State.putBytes_machineOrder (s : State) (o : ByteOrder) (a : BitVec 64) (count v : Nat) : (s.putBytes o a count v).machineOrder = s.machineOrder := rfl
@[simp] theorem State.putBytes_modeFlags (s : State) (o : ByteOrder) (a : BitVec 64) (count v : Nat) : (s.putBytes o a count v).modeFlags = s.modeFlags := rfl

@[simp] theorem State.saveContext_bankA (s : State) (c : Cause) : (s.saveContext c).bankA = s.bankA := rfl
@[simp] theorem State.saveContext_bankB (s : State) (c : Cause) : (s.saveContext c).bankB = s.bankB := rfl
@[simp] theorem State.saveContext_rh (s : State) (c : Cause) : (s.saveContext c).rh = s.rh := rfl
@[simp] theorem State.saveContext_fr (s : State) (c : Cause) : (s.saveContext c).fr = s.fr := rfl
@[simp] theorem State.saveContext_pc (s : State) (c : Cause) : (s.saveContext c).pc = s.pc := rfl
@[simp] theorem State.saveContext_gbr (s : State) (c : Cause) : (s.saveContext c).gbr = s.gbr := rfl
@[simp] theorem State.saveContext_vbr (s : State) (c : Cause) : (s.saveContext c).vbr = s.vbr := rfl
@[simp] theorem State.saveContext_vbrWritten (s : State) (c : Cause) : (s.saveContext c).vbrWritten = s.vbrWritten := rfl
@[simp] theorem State.saveContext_dbr (s : State) (c : Cause) : (s.saveContext c).dbr = s.dbr := rfl
@[simp] theorem State.saveContext_mach (s : State) (c : Cause) : (s.saveContext c).mach = s.mach := rfl
@[simp] theorem State.saveContext_macl (s : State) (c : Cause) : (s.saveContext c).macl = s.macl := rfl
@[simp] theorem State.saveContext_pr (s : State) (c : Cause) : (s.saveContext c).pr = s.pr := rfl
@[simp] theorem State.saveContext_fpscr (s : State) (c : Cause) : (s.saveContext c).fpscr = s.fpscr := rfl
@[simp] theorem State.saveContext_fpul (s : State) (c : Cause) : (s.saveContext c).fpul = s.fpul := rfl
@[simp] theorem State.saveContext_xtag (s : State) (c : Cause) : (s.saveContext c).xtag = s.xtag := rfl
@[simp] theorem State.saveContext_mem (s : State) (c : Cause) : (s.saveContext c).mem = s.mem := rfl
@[simp] theorem State.saveContext_irqInput (s : State) (c : Cause) : (s.saveContext c).irqInput = s.irqInput := rfl
@[simp] theorem State.saveContext_draws (s : State) (c : Cause) : (s.saveContext c).draws = s.draws := rfl
@[simp] theorem State.saveContext_params (s : State) (c : Cause) : (s.saveContext c).params = s.params := rfl

@[simp] theorem State.advance_bankA (s : State) (len : BitVec 64) : (s.advance len).bankA = s.bankA := rfl
@[simp] theorem State.advance_bankB (s : State) (len : BitVec 64) : (s.advance len).bankB = s.bankB := rfl
@[simp] theorem State.advance_rh (s : State) (len : BitVec 64) : (s.advance len).rh = s.rh := rfl
@[simp] theorem State.advance_fr (s : State) (len : BitVec 64) : (s.advance len).fr = s.fr := rfl
@[simp] theorem State.advance_sr (s : State) (len : BitVec 64) : (s.advance len).sr = s.sr := rfl
@[simp] theorem State.advance_gbr (s : State) (len : BitVec 64) : (s.advance len).gbr = s.gbr := rfl
@[simp] theorem State.advance_vbr (s : State) (len : BitVec 64) : (s.advance len).vbr = s.vbr := rfl
@[simp] theorem State.advance_vbrWritten (s : State) (len : BitVec 64) : (s.advance len).vbrWritten = s.vbrWritten := rfl
@[simp] theorem State.advance_ssr (s : State) (len : BitVec 64) : (s.advance len).ssr = s.ssr := rfl
@[simp] theorem State.advance_spc (s : State) (len : BitVec 64) : (s.advance len).spc = s.spc := rfl
@[simp] theorem State.advance_dbr (s : State) (len : BitVec 64) : (s.advance len).dbr = s.dbr := rfl
@[simp] theorem State.advance_mach (s : State) (len : BitVec 64) : (s.advance len).mach = s.mach := rfl
@[simp] theorem State.advance_macl (s : State) (len : BitVec 64) : (s.advance len).macl = s.macl := rfl
@[simp] theorem State.advance_pr (s : State) (len : BitVec 64) : (s.advance len).pr = s.pr := rfl
@[simp] theorem State.advance_fpscr (s : State) (len : BitVec 64) : (s.advance len).fpscr = s.fpscr := rfl
@[simp] theorem State.advance_fpul (s : State) (len : BitVec 64) : (s.advance len).fpul = s.fpul := rfl
@[simp] theorem State.advance_xtag (s : State) (len : BitVec 64) : (s.advance len).xtag = s.xtag := rfl
@[simp] theorem State.advance_asleep (s : State) (len : BitVec 64) : (s.advance len).asleep = s.asleep := rfl
@[simp] theorem State.advance_mem (s : State) (len : BitVec 64) : (s.advance len).mem = s.mem := rfl
@[simp] theorem State.advance_irqInput (s : State) (len : BitVec 64) : (s.advance len).irqInput = s.irqInput := rfl
@[simp] theorem State.advance_draws (s : State) (len : BitVec 64) : (s.advance len).draws = s.draws := rfl
@[simp] theorem State.advance_params (s : State) (len : BitVec 64) : (s.advance len).params = s.params := rfl
@[simp] theorem State.advance_t (s : State) (len : BitVec 64) : (s.advance len).t = s.t := rfl
@[simp] theorem State.advance_satur (s : State) (len : BitVec 64) : (s.advance len).satur = s.satur := rfl
@[simp] theorem State.advance_q (s : State) (len : BitVec 64) : (s.advance len).q = s.q := rfl
@[simp] theorem State.advance_m (s : State) (len : BitVec 64) : (s.advance len).m = s.m := rfl
@[simp] theorem State.advance_fd (s : State) (len : BitVec 64) : (s.advance len).fd = s.fd := rfl
@[simp] theorem State.advance_bl (s : State) (len : BitVec 64) : (s.advance len).bl = s.bl := rfl
@[simp] theorem State.advance_md (s : State) (len : BitVec 64) : (s.advance len).md = s.md := rfl
@[simp] theorem State.advance_wide (s : State) (len : BitVec 64) : (s.advance len).wide = s.wide := rfl
@[simp] theorem State.advance_W (s : State) (len : BitVec 64) : (s.advance len).W = s.W := rfl
@[simp] theorem State.advance_dq (s : State) (len : BitVec 64) : (s.advance len).dq = s.dq := rfl
@[simp] theorem State.advance_aq (s : State) (len : BitVec 64) : (s.advance len).aq = s.aq := rfl
@[simp] theorem State.advance_bankBActive (s : State) (len : BitVec 64) : (s.advance len).bankBActive = s.bankBActive := rfl
@[simp] theorem State.advance_localOrder (s : State) (len : BitVec 64) : (s.advance len).localOrder = s.localOrder := rfl
@[simp] theorem State.advance_machineOrder (s : State) (len : BitVec 64) : (s.advance len).machineOrder = s.machineOrder := rfl
@[simp] theorem State.advance_modeFlags (s : State) (len : BitVec 64) : (s.advance len).modeFlags = s.modeFlags := rfl

@[simp] theorem State.delayTo_bankA (s : State) (target len : BitVec 64) : (s.delayTo target len).bankA = s.bankA := rfl
@[simp] theorem State.delayTo_bankB (s : State) (target len : BitVec 64) : (s.delayTo target len).bankB = s.bankB := rfl
@[simp] theorem State.delayTo_rh (s : State) (target len : BitVec 64) : (s.delayTo target len).rh = s.rh := rfl
@[simp] theorem State.delayTo_fr (s : State) (target len : BitVec 64) : (s.delayTo target len).fr = s.fr := rfl
@[simp] theorem State.delayTo_sr (s : State) (target len : BitVec 64) : (s.delayTo target len).sr = s.sr := rfl
@[simp] theorem State.delayTo_gbr (s : State) (target len : BitVec 64) : (s.delayTo target len).gbr = s.gbr := rfl
@[simp] theorem State.delayTo_vbr (s : State) (target len : BitVec 64) : (s.delayTo target len).vbr = s.vbr := rfl
@[simp] theorem State.delayTo_vbrWritten (s : State) (target len : BitVec 64) : (s.delayTo target len).vbrWritten = s.vbrWritten := rfl
@[simp] theorem State.delayTo_ssr (s : State) (target len : BitVec 64) : (s.delayTo target len).ssr = s.ssr := rfl
@[simp] theorem State.delayTo_spc (s : State) (target len : BitVec 64) : (s.delayTo target len).spc = s.spc := rfl
@[simp] theorem State.delayTo_dbr (s : State) (target len : BitVec 64) : (s.delayTo target len).dbr = s.dbr := rfl
@[simp] theorem State.delayTo_mach (s : State) (target len : BitVec 64) : (s.delayTo target len).mach = s.mach := rfl
@[simp] theorem State.delayTo_macl (s : State) (target len : BitVec 64) : (s.delayTo target len).macl = s.macl := rfl
@[simp] theorem State.delayTo_pr (s : State) (target len : BitVec 64) : (s.delayTo target len).pr = s.pr := rfl
@[simp] theorem State.delayTo_fpscr (s : State) (target len : BitVec 64) : (s.delayTo target len).fpscr = s.fpscr := rfl
@[simp] theorem State.delayTo_fpul (s : State) (target len : BitVec 64) : (s.delayTo target len).fpul = s.fpul := rfl
@[simp] theorem State.delayTo_xtag (s : State) (target len : BitVec 64) : (s.delayTo target len).xtag = s.xtag := rfl
@[simp] theorem State.delayTo_asleep (s : State) (target len : BitVec 64) : (s.delayTo target len).asleep = s.asleep := rfl
@[simp] theorem State.delayTo_mem (s : State) (target len : BitVec 64) : (s.delayTo target len).mem = s.mem := rfl
@[simp] theorem State.delayTo_irqInput (s : State) (target len : BitVec 64) : (s.delayTo target len).irqInput = s.irqInput := rfl
@[simp] theorem State.delayTo_draws (s : State) (target len : BitVec 64) : (s.delayTo target len).draws = s.draws := rfl
@[simp] theorem State.delayTo_params (s : State) (target len : BitVec 64) : (s.delayTo target len).params = s.params := rfl
@[simp] theorem State.delayTo_t (s : State) (target len : BitVec 64) : (s.delayTo target len).t = s.t := rfl
@[simp] theorem State.delayTo_satur (s : State) (target len : BitVec 64) : (s.delayTo target len).satur = s.satur := rfl
@[simp] theorem State.delayTo_q (s : State) (target len : BitVec 64) : (s.delayTo target len).q = s.q := rfl
@[simp] theorem State.delayTo_m (s : State) (target len : BitVec 64) : (s.delayTo target len).m = s.m := rfl
@[simp] theorem State.delayTo_fd (s : State) (target len : BitVec 64) : (s.delayTo target len).fd = s.fd := rfl
@[simp] theorem State.delayTo_bl (s : State) (target len : BitVec 64) : (s.delayTo target len).bl = s.bl := rfl
@[simp] theorem State.delayTo_md (s : State) (target len : BitVec 64) : (s.delayTo target len).md = s.md := rfl
@[simp] theorem State.delayTo_wide (s : State) (target len : BitVec 64) : (s.delayTo target len).wide = s.wide := rfl
@[simp] theorem State.delayTo_W (s : State) (target len : BitVec 64) : (s.delayTo target len).W = s.W := rfl
@[simp] theorem State.delayTo_dq (s : State) (target len : BitVec 64) : (s.delayTo target len).dq = s.dq := rfl
@[simp] theorem State.delayTo_aq (s : State) (target len : BitVec 64) : (s.delayTo target len).aq = s.aq := rfl
@[simp] theorem State.delayTo_bankBActive (s : State) (target len : BitVec 64) : (s.delayTo target len).bankBActive = s.bankBActive := rfl
@[simp] theorem State.delayTo_localOrder (s : State) (target len : BitVec 64) : (s.delayTo target len).localOrder = s.localOrder := rfl
@[simp] theorem State.delayTo_machineOrder (s : State) (target len : BitVec 64) : (s.delayTo target len).machineOrder = s.machineOrder := rfl
@[simp] theorem State.delayTo_modeFlags (s : State) (target len : BitVec 64) : (s.delayTo target len).modeFlags = s.modeFlags := rfl

@[simp] theorem State.passBoundary_bankA (s : State) : (s.passBoundary).bankA = s.bankA := rfl
@[simp] theorem State.passBoundary_bankB (s : State) : (s.passBoundary).bankB = s.bankB := rfl
@[simp] theorem State.passBoundary_rh (s : State) : (s.passBoundary).rh = s.rh := rfl
@[simp] theorem State.passBoundary_fr (s : State) : (s.passBoundary).fr = s.fr := rfl
@[simp] theorem State.passBoundary_pc (s : State) : (s.passBoundary).pc = s.pc := rfl
@[simp] theorem State.passBoundary_sr (s : State) : (s.passBoundary).sr = s.sr := rfl
@[simp] theorem State.passBoundary_gbr (s : State) : (s.passBoundary).gbr = s.gbr := rfl
@[simp] theorem State.passBoundary_vbr (s : State) : (s.passBoundary).vbr = s.vbr := rfl
@[simp] theorem State.passBoundary_vbrWritten (s : State) : (s.passBoundary).vbrWritten = s.vbrWritten := rfl
@[simp] theorem State.passBoundary_ssr (s : State) : (s.passBoundary).ssr = s.ssr := rfl
@[simp] theorem State.passBoundary_spc (s : State) : (s.passBoundary).spc = s.spc := rfl
@[simp] theorem State.passBoundary_dbr (s : State) : (s.passBoundary).dbr = s.dbr := rfl
@[simp] theorem State.passBoundary_mach (s : State) : (s.passBoundary).mach = s.mach := rfl
@[simp] theorem State.passBoundary_macl (s : State) : (s.passBoundary).macl = s.macl := rfl
@[simp] theorem State.passBoundary_pr (s : State) : (s.passBoundary).pr = s.pr := rfl
@[simp] theorem State.passBoundary_fpscr (s : State) : (s.passBoundary).fpscr = s.fpscr := rfl
@[simp] theorem State.passBoundary_fpul (s : State) : (s.passBoundary).fpul = s.fpul := rfl
@[simp] theorem State.passBoundary_slot (s : State) : (s.passBoundary).slot = s.slot := rfl
@[simp] theorem State.passBoundary_xtag (s : State) : (s.passBoundary).xtag = s.xtag := rfl
@[simp] theorem State.passBoundary_asleep (s : State) : (s.passBoundary).asleep = s.asleep := rfl
@[simp] theorem State.passBoundary_mem (s : State) : (s.passBoundary).mem = s.mem := rfl
@[simp] theorem State.passBoundary_draws (s : State) : (s.passBoundary).draws = s.draws := rfl
@[simp] theorem State.passBoundary_params (s : State) : (s.passBoundary).params = s.params := rfl
@[simp] theorem State.passBoundary_t (s : State) : (s.passBoundary).t = s.t := rfl
@[simp] theorem State.passBoundary_satur (s : State) : (s.passBoundary).satur = s.satur := rfl
@[simp] theorem State.passBoundary_q (s : State) : (s.passBoundary).q = s.q := rfl
@[simp] theorem State.passBoundary_m (s : State) : (s.passBoundary).m = s.m := rfl
@[simp] theorem State.passBoundary_fd (s : State) : (s.passBoundary).fd = s.fd := rfl
@[simp] theorem State.passBoundary_bl (s : State) : (s.passBoundary).bl = s.bl := rfl
@[simp] theorem State.passBoundary_md (s : State) : (s.passBoundary).md = s.md := rfl
@[simp] theorem State.passBoundary_wide (s : State) : (s.passBoundary).wide = s.wide := rfl
@[simp] theorem State.passBoundary_W (s : State) : (s.passBoundary).W = s.W := rfl
@[simp] theorem State.passBoundary_dq (s : State) : (s.passBoundary).dq = s.dq := rfl
@[simp] theorem State.passBoundary_aq (s : State) : (s.passBoundary).aq = s.aq := rfl
@[simp] theorem State.passBoundary_bankBActive (s : State) : (s.passBoundary).bankBActive = s.bankBActive := rfl
@[simp] theorem State.passBoundary_localOrder (s : State) : (s.passBoundary).localOrder = s.localOrder := rfl
@[simp] theorem State.passBoundary_machineOrder (s : State) : (s.passBoundary).machineOrder = s.machineOrder := rfl
@[simp] theorem State.passBoundary_modeFlags (s : State) : (s.passBoundary).modeFlags = s.modeFlags := rfl

@[simp] theorem State.putSpecial_bankA (s : State) (r : Special) (v : BitVec 64) : (s.putSpecial r v).bankA = s.bankA := by
  cases r <;> rfl
@[simp] theorem State.writeSpecial_bankA (s : State) (r : Special) {w : Nat} (v : BitVec w) : (s.writeSpecial r v).bankA = s.bankA := by
  cases r <;> rfl
@[simp] theorem State.putSpecial_bankB (s : State) (r : Special) (v : BitVec 64) : (s.putSpecial r v).bankB = s.bankB := by
  cases r <;> rfl
@[simp] theorem State.writeSpecial_bankB (s : State) (r : Special) {w : Nat} (v : BitVec w) : (s.writeSpecial r v).bankB = s.bankB := by
  cases r <;> rfl
@[simp] theorem State.putSpecial_rh (s : State) (r : Special) (v : BitVec 64) : (s.putSpecial r v).rh = s.rh := by
  cases r <;> rfl
@[simp] theorem State.writeSpecial_rh (s : State) (r : Special) {w : Nat} (v : BitVec w) : (s.writeSpecial r v).rh = s.rh := by
  cases r <;> rfl
@[simp] theorem State.putSpecial_pc (s : State) (r : Special) (v : BitVec 64) : (s.putSpecial r v).pc = s.pc := by
  cases r <;> rfl
@[simp] theorem State.writeSpecial_pc (s : State) (r : Special) {w : Nat} (v : BitVec w) : (s.writeSpecial r v).pc = s.pc := by
  cases r <;> rfl
@[simp] theorem State.putSpecial_slot (s : State) (r : Special) (v : BitVec 64) : (s.putSpecial r v).slot = s.slot := by
  cases r <;> rfl
@[simp] theorem State.writeSpecial_slot (s : State) (r : Special) {w : Nat} (v : BitVec w) : (s.writeSpecial r v).slot = s.slot := by
  cases r <;> rfl
@[simp] theorem State.putSpecial_xtag (s : State) (r : Special) (v : BitVec 64) : (s.putSpecial r v).xtag = s.xtag := by
  cases r <;> rfl
@[simp] theorem State.writeSpecial_xtag (s : State) (r : Special) {w : Nat} (v : BitVec w) : (s.writeSpecial r v).xtag = s.xtag := by
  cases r <;> rfl
@[simp] theorem State.putSpecial_asleep (s : State) (r : Special) (v : BitVec 64) : (s.putSpecial r v).asleep = s.asleep := by
  cases r <;> rfl
@[simp] theorem State.writeSpecial_asleep (s : State) (r : Special) {w : Nat} (v : BitVec w) : (s.writeSpecial r v).asleep = s.asleep := by
  cases r <;> rfl
@[simp] theorem State.putSpecial_mem (s : State) (r : Special) (v : BitVec 64) : (s.putSpecial r v).mem = s.mem := by
  cases r <;> rfl
@[simp] theorem State.writeSpecial_mem (s : State) (r : Special) {w : Nat} (v : BitVec w) : (s.writeSpecial r v).mem = s.mem := by
  cases r <;> rfl
@[simp] theorem State.putSpecial_irqInput (s : State) (r : Special) (v : BitVec 64) : (s.putSpecial r v).irqInput = s.irqInput := by
  cases r <;> rfl
@[simp] theorem State.writeSpecial_irqInput (s : State) (r : Special) {w : Nat} (v : BitVec w) : (s.writeSpecial r v).irqInput = s.irqInput := by
  cases r <;> rfl
@[simp] theorem State.putSpecial_params (s : State) (r : Special) (v : BitVec 64) : (s.putSpecial r v).params = s.params := by
  cases r <;> rfl
@[simp] theorem State.writeSpecial_params (s : State) (r : Special) {w : Nat} (v : BitVec w) : (s.writeSpecial r v).params = s.params := by
  cases r <;> rfl
@[simp] theorem State.putSpecial_vbrWritten (s : State) (r : Special) (v : BitVec 64) :
    (s.putSpecial r v).vbrWritten = (s.vbrWritten || decide (r = .vbr)) := by
  cases r <;> simp [State.putSpecial, State.putSR]
@[simp] theorem State.writeSpecial_vbrWritten (s : State) (r : Special) {w : Nat} (v : BitVec w) :
    (s.writeSpecial r v).vbrWritten = (s.vbrWritten || decide (r = .vbr)) := s.putSpecial_vbrWritten r _

end Sys2Proof.Machine
end

