-- ==== Sys2Proof/Laws/Operands.lean ====
section
/-!
SUPPORT. Laws of the operand forms: the bits of a status register, the general registers through the banks, the system and
control registers, the FPU registers, the widths, and the frames of the updates.
-/

namespace Sys2Proof.Machine

/-! Bits of a status register. -/

theorem getLsbD_putBit (v : BitVec 64) (k : Nat) (b : Bool) (j : Nat) :
    (putBit v k b).getLsbD j = if j = k ∧ k < 64 then b else v.getLsbD j := by
  by_cases hj : j < 64
  · cases b <;> simp only [putBit, Bool.false_eq_true, if_false, if_true, BitVec.getLsbD_or, BitVec.getLsbD_and,
      BitVec.getLsbD_not, BitVec.getLsbD_shiftLeft, BitVec.getLsbD_one, hj, decide_true, Bool.true_and]
    · by_cases h : j = k
      · subst h; simp [hj]
      · rw [if_neg (by tauto)]
        by_cases h2 : j < k
        · simp [h2]
        · simp [h2, show ¬ j - k = 0 by omega]
    · by_cases h : j = k
      · subst h; simp [hj]
      · rw [if_neg (by tauto)]
        by_cases h2 : j < k
        · simp [h2]
        · simp [h2, show ¬ j - k = 0 by omega]
  · rw [BitVec.getLsbD_of_ge _ _ (by omega), BitVec.getLsbD_of_ge _ _ (by omega), if_neg (by omega)]


/-! A register as a bank names it is one of three files: every update that leaves the files alone leaves it alone. -/

theorem State.regAt_bankBActive (s : State) (i : Reg) : s.regAt s.bankBActive i = s.reg i := rfl

theorem State.otherAt_bankBActive (s : State) (i : BankReg) : s.otherAt s.bankBActive i = s.otherReg i := rfl

@[simp] theorem State.putT_t (s : State) (b : Bool) : (s.putT b).t = b :=
  (getLsbD_putBit _ _ _ _).trans (by simp)
@[simp] theorem State.putT_satur (s : State) (b : Bool) : (s.putT b).satur = s.satur :=
  (getLsbD_putBit _ _ _ _).trans (by simp [State.satur])
@[simp] theorem State.putT_q (s : State) (b : Bool) : (s.putT b).q = s.q :=
  (getLsbD_putBit _ _ _ _).trans (by simp [State.q])
@[simp] theorem State.putT_m (s : State) (b : Bool) : (s.putT b).m = s.m :=
  (getLsbD_putBit _ _ _ _).trans (by simp [State.m])
@[simp] theorem State.putT_fd (s : State) (b : Bool) : (s.putT b).fd = s.fd :=
  (getLsbD_putBit _ _ _ _).trans (by simp [State.fd])
@[simp] theorem State.putT_dq (s : State) (b : Bool) : (s.putT b).dq = s.dq :=
  (getLsbD_putBit _ _ _ _).trans (by simp [State.dq])
@[simp] theorem State.putT_aq (s : State) (b : Bool) : (s.putT b).aq = s.aq :=
  (getLsbD_putBit _ _ _ _).trans (by simp [State.aq])
@[simp] theorem State.putT_le (s : State) (b : Bool) : (s.putT b).le = s.le :=
  (getLsbD_putBit _ _ _ _).trans (by simp [State.le])
@[simp] theorem State.putT_me (s : State) (b : Bool) : (s.putT b).me = s.me :=
  (getLsbD_putBit _ _ _ _).trans (by simp [State.me])
@[simp] theorem State.putT_bl (s : State) (b : Bool) : (s.putT b).bl = s.bl :=
  (getLsbD_putBit _ _ _ _).trans (by simp [State.bl])
@[simp] theorem State.putT_rb (s : State) (b : Bool) : (s.putT b).rb = s.rb :=
  (getLsbD_putBit _ _ _ _).trans (by simp [State.rb])
@[simp] theorem State.putT_md (s : State) (b : Bool) : (s.putT b).md = s.md :=
  (getLsbD_putBit _ _ _ _).trans (by simp [State.md])
@[simp] theorem State.putT_localOrder (s : State) (b : Bool) : (s.putT b).localOrder = s.localOrder := by
  simp [State.localOrder]
@[simp] theorem State.putT_machineOrder (s : State) (b : Bool) : (s.putT b).machineOrder = s.machineOrder := by
  simp [State.machineOrder]
@[simp] theorem State.putT_wide (s : State) (b : Bool) : (s.putT b).wide = s.wide := by
  simp [State.wide]
@[simp] theorem State.putT_W (s : State) (b : Bool) : (s.putT b).W = s.W := by
  simp [State.W]
@[simp] theorem State.putT_regAt (s : State) (b c : Bool) (i : Reg) : (s.putT b).regAt c i = s.regAt c i := rfl
@[simp] theorem State.putT_otherAt (s : State) (b c : Bool) (i : BankReg) : (s.putT b).otherAt c i = s.otherAt c i := rfl
@[simp] theorem State.putT_ea (s : State) (b : Bool) (a : BitVec 64) : (s.putT b).ea a = s.ea a := by
  simp [State.ea]

@[simp] theorem State.putSatur_t (s : State) (b : Bool) : (s.putSatur b).t = s.t :=
  (getLsbD_putBit _ _ _ _).trans (by simp [State.t])
@[simp] theorem State.putSatur_satur (s : State) (b : Bool) : (s.putSatur b).satur = b :=
  (getLsbD_putBit _ _ _ _).trans (by simp)
@[simp] theorem State.putSatur_q (s : State) (b : Bool) : (s.putSatur b).q = s.q :=
  (getLsbD_putBit _ _ _ _).trans (by simp [State.q])
@[simp] theorem State.putSatur_m (s : State) (b : Bool) : (s.putSatur b).m = s.m :=
  (getLsbD_putBit _ _ _ _).trans (by simp [State.m])
@[simp] theorem State.putSatur_fd (s : State) (b : Bool) : (s.putSatur b).fd = s.fd :=
  (getLsbD_putBit _ _ _ _).trans (by simp [State.fd])
@[simp] theorem State.putSatur_dq (s : State) (b : Bool) : (s.putSatur b).dq = s.dq :=
  (getLsbD_putBit _ _ _ _).trans (by simp [State.dq])
@[simp] theorem State.putSatur_aq (s : State) (b : Bool) : (s.putSatur b).aq = s.aq :=
  (getLsbD_putBit _ _ _ _).trans (by simp [State.aq])
@[simp] theorem State.putSatur_le (s : State) (b : Bool) : (s.putSatur b).le = s.le :=
  (getLsbD_putBit _ _ _ _).trans (by simp [State.le])
@[simp] theorem State.putSatur_me (s : State) (b : Bool) : (s.putSatur b).me = s.me :=
  (getLsbD_putBit _ _ _ _).trans (by simp [State.me])
@[simp] theorem State.putSatur_bl (s : State) (b : Bool) : (s.putSatur b).bl = s.bl :=
  (getLsbD_putBit _ _ _ _).trans (by simp [State.bl])
@[simp] theorem State.putSatur_rb (s : State) (b : Bool) : (s.putSatur b).rb = s.rb :=
  (getLsbD_putBit _ _ _ _).trans (by simp [State.rb])
@[simp] theorem State.putSatur_md (s : State) (b : Bool) : (s.putSatur b).md = s.md :=
  (getLsbD_putBit _ _ _ _).trans (by simp [State.md])
@[simp] theorem State.putSatur_localOrder (s : State) (b : Bool) : (s.putSatur b).localOrder = s.localOrder := by
  simp [State.localOrder]
@[simp] theorem State.putSatur_machineOrder (s : State) (b : Bool) : (s.putSatur b).machineOrder = s.machineOrder := by
  simp [State.machineOrder]
@[simp] theorem State.putSatur_wide (s : State) (b : Bool) : (s.putSatur b).wide = s.wide := by
  simp [State.wide]
@[simp] theorem State.putSatur_W (s : State) (b : Bool) : (s.putSatur b).W = s.W := by
  simp [State.W]
@[simp] theorem State.putSatur_regAt (s : State) (b c : Bool) (i : Reg) : (s.putSatur b).regAt c i = s.regAt c i := rfl
@[simp] theorem State.putSatur_otherAt (s : State) (b c : Bool) (i : BankReg) : (s.putSatur b).otherAt c i = s.otherAt c i := rfl
@[simp] theorem State.putSatur_ea (s : State) (b : Bool) (a : BitVec 64) : (s.putSatur b).ea a = s.ea a := by
  simp [State.ea]

@[simp] theorem State.putQ_t (s : State) (b : Bool) : (s.putQ b).t = s.t :=
  (getLsbD_putBit _ _ _ _).trans (by simp [State.t])
@[simp] theorem State.putQ_satur (s : State) (b : Bool) : (s.putQ b).satur = s.satur :=
  (getLsbD_putBit _ _ _ _).trans (by simp [State.satur])
@[simp] theorem State.putQ_q (s : State) (b : Bool) : (s.putQ b).q = b :=
  (getLsbD_putBit _ _ _ _).trans (by simp)
@[simp] theorem State.putQ_m (s : State) (b : Bool) : (s.putQ b).m = s.m :=
  (getLsbD_putBit _ _ _ _).trans (by simp [State.m])
@[simp] theorem State.putQ_fd (s : State) (b : Bool) : (s.putQ b).fd = s.fd :=
  (getLsbD_putBit _ _ _ _).trans (by simp [State.fd])
@[simp] theorem State.putQ_dq (s : State) (b : Bool) : (s.putQ b).dq = s.dq :=
  (getLsbD_putBit _ _ _ _).trans (by simp [State.dq])
@[simp] theorem State.putQ_aq (s : State) (b : Bool) : (s.putQ b).aq = s.aq :=
  (getLsbD_putBit _ _ _ _).trans (by simp [State.aq])
@[simp] theorem State.putQ_le (s : State) (b : Bool) : (s.putQ b).le = s.le :=
  (getLsbD_putBit _ _ _ _).trans (by simp [State.le])
@[simp] theorem State.putQ_me (s : State) (b : Bool) : (s.putQ b).me = s.me :=
  (getLsbD_putBit _ _ _ _).trans (by simp [State.me])
@[simp] theorem State.putQ_bl (s : State) (b : Bool) : (s.putQ b).bl = s.bl :=
  (getLsbD_putBit _ _ _ _).trans (by simp [State.bl])
@[simp] theorem State.putQ_rb (s : State) (b : Bool) : (s.putQ b).rb = s.rb :=
  (getLsbD_putBit _ _ _ _).trans (by simp [State.rb])
@[simp] theorem State.putQ_md (s : State) (b : Bool) : (s.putQ b).md = s.md :=
  (getLsbD_putBit _ _ _ _).trans (by simp [State.md])
@[simp] theorem State.putQ_localOrder (s : State) (b : Bool) : (s.putQ b).localOrder = s.localOrder := by
  simp [State.localOrder]
@[simp] theorem State.putQ_machineOrder (s : State) (b : Bool) : (s.putQ b).machineOrder = s.machineOrder := by
  simp [State.machineOrder]
@[simp] theorem State.putQ_wide (s : State) (b : Bool) : (s.putQ b).wide = s.wide := by
  simp [State.wide]
@[simp] theorem State.putQ_W (s : State) (b : Bool) : (s.putQ b).W = s.W := by
  simp [State.W]
@[simp] theorem State.putQ_regAt (s : State) (b c : Bool) (i : Reg) : (s.putQ b).regAt c i = s.regAt c i := rfl
@[simp] theorem State.putQ_otherAt (s : State) (b c : Bool) (i : BankReg) : (s.putQ b).otherAt c i = s.otherAt c i := rfl
@[simp] theorem State.putQ_ea (s : State) (b : Bool) (a : BitVec 64) : (s.putQ b).ea a = s.ea a := by
  simp [State.ea]

@[simp] theorem State.putM_t (s : State) (b : Bool) : (s.putM b).t = s.t :=
  (getLsbD_putBit _ _ _ _).trans (by simp [State.t])
@[simp] theorem State.putM_satur (s : State) (b : Bool) : (s.putM b).satur = s.satur :=
  (getLsbD_putBit _ _ _ _).trans (by simp [State.satur])
@[simp] theorem State.putM_q (s : State) (b : Bool) : (s.putM b).q = s.q :=
  (getLsbD_putBit _ _ _ _).trans (by simp [State.q])
@[simp] theorem State.putM_m (s : State) (b : Bool) : (s.putM b).m = b :=
  (getLsbD_putBit _ _ _ _).trans (by simp)
@[simp] theorem State.putM_fd (s : State) (b : Bool) : (s.putM b).fd = s.fd :=
  (getLsbD_putBit _ _ _ _).trans (by simp [State.fd])
@[simp] theorem State.putM_dq (s : State) (b : Bool) : (s.putM b).dq = s.dq :=
  (getLsbD_putBit _ _ _ _).trans (by simp [State.dq])
@[simp] theorem State.putM_aq (s : State) (b : Bool) : (s.putM b).aq = s.aq :=
  (getLsbD_putBit _ _ _ _).trans (by simp [State.aq])
@[simp] theorem State.putM_le (s : State) (b : Bool) : (s.putM b).le = s.le :=
  (getLsbD_putBit _ _ _ _).trans (by simp [State.le])
@[simp] theorem State.putM_me (s : State) (b : Bool) : (s.putM b).me = s.me :=
  (getLsbD_putBit _ _ _ _).trans (by simp [State.me])
@[simp] theorem State.putM_bl (s : State) (b : Bool) : (s.putM b).bl = s.bl :=
  (getLsbD_putBit _ _ _ _).trans (by simp [State.bl])
@[simp] theorem State.putM_rb (s : State) (b : Bool) : (s.putM b).rb = s.rb :=
  (getLsbD_putBit _ _ _ _).trans (by simp [State.rb])
@[simp] theorem State.putM_md (s : State) (b : Bool) : (s.putM b).md = s.md :=
  (getLsbD_putBit _ _ _ _).trans (by simp [State.md])
@[simp] theorem State.putM_localOrder (s : State) (b : Bool) : (s.putM b).localOrder = s.localOrder := by
  simp [State.localOrder]
@[simp] theorem State.putM_machineOrder (s : State) (b : Bool) : (s.putM b).machineOrder = s.machineOrder := by
  simp [State.machineOrder]
@[simp] theorem State.putM_wide (s : State) (b : Bool) : (s.putM b).wide = s.wide := by
  simp [State.wide]
@[simp] theorem State.putM_W (s : State) (b : Bool) : (s.putM b).W = s.W := by
  simp [State.W]
@[simp] theorem State.putM_regAt (s : State) (b c : Bool) (i : Reg) : (s.putM b).regAt c i = s.regAt c i := rfl
@[simp] theorem State.putM_otherAt (s : State) (b c : Bool) (i : BankReg) : (s.putM b).otherAt c i = s.otherAt c i := rfl
@[simp] theorem State.putM_ea (s : State) (b : Bool) (a : BitVec 64) : (s.putM b).ea a = s.ea a := by
  simp [State.ea]

@[simp] theorem State.putDQ_t (s : State) (b : Bool) : (s.putDQ b).t = s.t :=
  (getLsbD_putBit _ _ _ _).trans (by simp [State.t])
@[simp] theorem State.putDQ_satur (s : State) (b : Bool) : (s.putDQ b).satur = s.satur :=
  (getLsbD_putBit _ _ _ _).trans (by simp [State.satur])
@[simp] theorem State.putDQ_q (s : State) (b : Bool) : (s.putDQ b).q = s.q :=
  (getLsbD_putBit _ _ _ _).trans (by simp [State.q])
@[simp] theorem State.putDQ_m (s : State) (b : Bool) : (s.putDQ b).m = s.m :=
  (getLsbD_putBit _ _ _ _).trans (by simp [State.m])
@[simp] theorem State.putDQ_fd (s : State) (b : Bool) : (s.putDQ b).fd = s.fd :=
  (getLsbD_putBit _ _ _ _).trans (by simp [State.fd])
@[simp] theorem State.putDQ_dq (s : State) (b : Bool) : (s.putDQ b).dq = b :=
  (getLsbD_putBit _ _ _ _).trans (by simp)
@[simp] theorem State.putDQ_aq (s : State) (b : Bool) : (s.putDQ b).aq = s.aq :=
  (getLsbD_putBit _ _ _ _).trans (by simp [State.aq])
@[simp] theorem State.putDQ_le (s : State) (b : Bool) : (s.putDQ b).le = s.le :=
  (getLsbD_putBit _ _ _ _).trans (by simp [State.le])
@[simp] theorem State.putDQ_me (s : State) (b : Bool) : (s.putDQ b).me = s.me :=
  (getLsbD_putBit _ _ _ _).trans (by simp [State.me])
@[simp] theorem State.putDQ_bl (s : State) (b : Bool) : (s.putDQ b).bl = s.bl :=
  (getLsbD_putBit _ _ _ _).trans (by simp [State.bl])
@[simp] theorem State.putDQ_rb (s : State) (b : Bool) : (s.putDQ b).rb = s.rb :=
  (getLsbD_putBit _ _ _ _).trans (by simp [State.rb])
@[simp] theorem State.putDQ_md (s : State) (b : Bool) : (s.putDQ b).md = s.md :=
  (getLsbD_putBit _ _ _ _).trans (by simp [State.md])
@[simp] theorem State.putDQ_localOrder (s : State) (b : Bool) : (s.putDQ b).localOrder = s.localOrder := by
  simp [State.localOrder]
@[simp] theorem State.putDQ_machineOrder (s : State) (b : Bool) : (s.putDQ b).machineOrder = s.machineOrder := by
  simp [State.machineOrder]
@[simp] theorem State.putDQ_regAt (s : State) (b c : Bool) (i : Reg) : (s.putDQ b).regAt c i = s.regAt c i := rfl
@[simp] theorem State.putDQ_otherAt (s : State) (b c : Bool) (i : BankReg) : (s.putDQ b).otherAt c i = s.otherAt c i := rfl
@[simp] theorem State.putDQ_ea (s : State) (b : Bool) (a : BitVec 64) : (s.putDQ b).ea a = s.ea a := by
  simp [State.ea]

/-! Widths. -/

theorem State.W_eq (s : State) : s.W = if s.wide then 64 else 32 := rfl

theorem State.W_of_wide {s : State} (h : s.wide = true) : s.W = 64 := by simp [State.W, h]

theorem State.W_of_narrow {s : State} (h : s.wide = false) : s.W = 32 := by simp [State.W, h]

theorem State.W_cases (s : State) : (s.wide = true ∧ s.W = 64) ∨ (s.wide = false ∧ s.W = 32) := by
  cases h : s.wide
  · exact .inr ⟨rfl, State.W_of_narrow h⟩
  · exact .inl ⟨rfl, State.W_of_wide h⟩

theorem State.W_pos (s : State) : 0 < s.W := by rcases s.W_cases with ⟨_, h⟩ | ⟨_, h⟩ <;> omega

theorem State.W_le (s : State) : s.W ≤ 64 := by rcases s.W_cases with ⟨_, h⟩ | ⟨_, h⟩ <;> omega

theorem State.le_W (s : State) : 32 ≤ s.W := by rcases s.W_cases with ⟨_, h⟩ | ⟨_, h⟩ <;> omega

/-! General registers. -/

theorem low3_of_high {i j : Reg} (hi : i.msb = true) (hj : j.msb = true) (h : low3 i = low3 j) : i = j := by
  revert i j; decide

theorem low3_of_low {i j : Reg} (hi : i.msb = false) (hj : j.msb = false) (h : low3 i = low3 j) : i = j := by
  revert i j; decide

theorem get_set_eight (v : Vector Reg64 8) (i j : Fin 8) (r : Reg64) :
    (v.set i r).get j = if i = j then r else v.get j := by
  simp only [Vector.get, Vector.set, Fin.ext_iff]
  exact Array.getElem_set ..

theorem State.putReg_bankA (s : State) (i : Reg) (r : Reg64) :
    (s.putReg i r).bankA = if !i.msb && !s.bankBActive then s.bankA.set (low3 i) r else s.bankA := rfl

theorem State.putReg_bankB (s : State) (i : Reg) (r : Reg64) :
    (s.putReg i r).bankB = if !i.msb && s.bankBActive then s.bankB.set (low3 i) r else s.bankB := rfl

theorem State.putReg_rh (s : State) (i : Reg) (r : Reg64) :
    (s.putReg i r).rh = if i.msb then s.rh.set (low3 i) r else s.rh := rfl

theorem get_set_sixteen (v : Vector Reg64 16) (i j : Fin 16) (r : Reg64) :
    (v.set i r).get j = if i = j then r else v.get j := by
  simp only [Vector.get, Vector.set, Fin.ext_iff]
  exact Array.getElem_set ..

/-- A general register after one is replaced. -/
theorem State.reg_putReg (s : State) (i j : Reg) (r : Reg64) :
    (s.putReg i r).reg j = if j = i then r else s.reg j := by
  unfold State.reg State.regAt
  simp only [State.putReg_bankBActive, State.putReg_bankA, State.putReg_bankB, State.putReg_rh]
  by_cases h : j = i
  · subst h
    by_cases hj : j.msb = true <;> by_cases hb : s.bankBActive = true <;> simp [hj, hb, get_set_eight]
  · rw [if_neg h]
    by_cases hi : i.msb = true <;> by_cases hj : j.msb = true <;> by_cases hb : s.bankBActive = true <;>
      simp only [hi, hj, hb, get_set_eight, Bool.not_true, Bool.not_false, Bool.and_true, Bool.and_false, if_true,
        Bool.false_eq_true, if_false]
    · rw [if_neg fun e => h (low3_of_high hi hj e).symm]
    · rw [if_neg fun e => h (low3_of_high hi hj e).symm]
    · rw [if_neg fun e => h (low3_of_low (by simpa using hi) (by simpa using hj) e).symm]
    · rw [if_neg fun e => h (low3_of_low (by simpa using hi) (by simpa using hj) e).symm]

theorem State.reg_putReg_self (s : State) (i : Reg) (r : Reg64) : (s.putReg i r).reg i = r := by simp [State.reg_putReg]

theorem State.otherReg_putReg (s : State) (i : Reg) (r : Reg64) (j : BankReg) : (s.putReg i r).otherReg j = s.otherReg j := by
  simp only [State.otherReg, State.otherAt, State.putReg_bankBActive, State.putReg_bankA, State.putReg_bankB]
  by_cases hb : s.bankBActive = true <;> simp [hb]

theorem State.putOtherReg_bankA (s : State) (i : BankReg) (r : Reg64) :
    (s.putOtherReg i r).bankA = if s.bankBActive then s.bankA.set i.toNat r i.isLt else s.bankA := rfl

theorem State.putOtherReg_bankB (s : State) (i : BankReg) (r : Reg64) :
    (s.putOtherReg i r).bankB = if s.bankBActive then s.bankB else s.bankB.set i.toNat r i.isLt := rfl

theorem State.reg_putOtherReg (s : State) (i : BankReg) (r : Reg64) (j : Reg) : (s.putOtherReg i r).reg j = s.reg j := by
  simp only [State.reg, State.regAt, State.putOtherReg_bankBActive, State.putOtherReg_rh, State.putOtherReg_bankA,
    State.putOtherReg_bankB]
  by_cases hb : s.bankBActive = true <;> simp [hb]

theorem State.otherReg_putOtherReg (s : State) (i j : BankReg) (r : Reg64) :
    (s.putOtherReg i r).otherReg j = if j = i then r else s.otherReg j := by
  have e : i.toFin = j.toFin ↔ j = i := by
    constructor
    · intro h; exact (BitVec.toFin_inj.1 h).symm
    · rintro rfl; rfl
  simp only [State.otherReg, State.otherAt, State.putOtherReg_bankBActive, State.putOtherReg_bankA, State.putOtherReg_bankB]
  by_cases hb : s.bankBActive = true
  · have := get_set_eight s.bankA i.toFin j.toFin r
    simp only [e] at this
    simpa [hb] using this
  · have := get_set_eight s.bankB i.toFin j.toFin r
    simp only [e] at this
    simpa [hb] using this

theorem Reg64.low_ofBits_sixtyfour (v : BitVec 64) : (Reg64.ofBits v).low 64 = v := by
  simp only [Reg64.low, Reg64.ofBits]
  rw [if_neg (by decide)]
  rw [BitVec.setWidth_eq]
  apply BitVec.eq_of_getLsbD_eq
  intro k hk
  rw [BitVec.getLsbD_append, BitVec.getLsbD_extractLsb', BitVec.getLsbD_extractLsb']
  by_cases h : k < 32
  · simp [h]
  · simp [h, show k - 32 < 32 by omega, show 32 + (k - 32) = k by omega]

/-- The low `W` bits of a register after a write: the low `W` bits of the value. -/
theorem State.low_image (s : State) {w : Nat} (v : BitVec w) : ((s.image v).low s.W).toNat = v.toNat % 2 ^ s.W := by
  rcases s.W_cases with ⟨h, hw⟩ | ⟨h, hw⟩
  · rw [hw]
    simp only [State.image, h, if_true, Reg64.low_ofBits_sixtyfour, BitVec.toNat_setWidth]
  · rw [hw]
    simp [State.image, h, Reg64.low]

theorem State.xNat_eq_reg (s : State) (i : Reg) : s.xNat i = ((s.reg i).low s.W).toNat := rfl

theorem State.xNat_lt (s : State) (i : Reg) : s.xNat i < 2 ^ s.W := (s.x i).isLt

theorem State.xInt_eq (s : State) (i : Reg) : s.xInt i = Int.bmod (s.xNat i) (2 ^ s.W) := by
  rw [State.xInt, State.xNat, BitVec.toInt_eq_toNat_bmod]

theorem State.xBit_eq (s : State) (i : Reg) (k : Nat) : s.xBit i k = (s.xNat i).testBit k := rfl

/-- A general register after a write, as a number: the low `W` bits of the value. -/
theorem State.xNat_setX_self (s : State) (i : Reg) {w : Nat} (v : BitVec w) : (s.setX i v).xNat i = v.toNat % 2 ^ s.W := by
  rw [State.xNat_eq_reg, State.setX_W, ← s.low_image v]
  congr 2
  exact s.reg_putReg_self i (s.image v)

theorem State.reg_setX_of_ne (s : State) {i j : Reg} {w : Nat} (v : BitVec w) (h : j ≠ i) : (s.setX i v).reg j = s.reg j := by
  show (s.putReg i (s.image v)).reg j = s.reg j
  rw [State.reg_putReg, if_neg h]

theorem State.xNat_setX_of_ne (s : State) {i j : Reg} {w : Nat} (v : BitVec w) (h : j ≠ i) :
    (s.setX i v).xNat j = s.xNat j := by
  rw [State.xNat_eq_reg, State.xNat_eq_reg, State.reg_setX_of_ne s v h, State.setX_W]

/-- A general register after a write of a value of the register's width, as a number. -/
theorem State.xNat_setX (s : State) (i : Reg) (v : BitVec s.W) : (s.setX i v).xNat i = v.toNat := by
  rw [State.xNat_setX_self, Nat.mod_eq_of_lt v.isLt]

/-- A general register after a write of a value of the register's width, as a signed number. -/
theorem State.xInt_setX (s : State) (i : Reg) (v : BitVec s.W) : (s.setX i v).xInt i = v.toInt := by
  rw [State.xInt_eq, State.xNat_setX, State.setX_W, BitVec.toInt_eq_toNat_bmod]

theorem State.xBit_setX (s : State) (i : Reg) (v : BitVec s.W) (k : Nat) : (s.setX i v).xBit i k = v.getLsbD k := by
  rw [State.xBit_eq, State.xNat_setX]; rfl

/-- A register of the inactive bank after a write, as a number. -/
theorem State.otherNat_setXOther (s : State) (i : BankReg) {w : Nat} (v : BitVec w) :
    (s.setXOther i v).otherNat i = v.toNat % 2 ^ s.W := by
  rw [← s.low_image v]
  show (((s.setXOther i v).otherReg i).low s.W).toNat = _
  congr 2
  show (s.putOtherReg i (s.image v)).otherReg i = _
  rw [State.otherReg_putOtherReg, if_pos rfl]

/-! The numbers of a register under the updates that leave it alone. -/

theorem State.xNat_congr {s t : State} {i : Reg} (hr : t.reg i = s.reg i) (hw : t.W = s.W) : t.xNat i = s.xNat i := by
  rw [State.xNat_eq_reg, State.xNat_eq_reg, hr, hw]

theorem State.xInt_congr {s t : State} {i : Reg} (hr : t.reg i = s.reg i) (hw : t.W = s.W) : t.xInt i = s.xInt i := by
  rw [State.xInt_eq, State.xInt_eq, State.xNat_congr hr hw, hw]

@[simp] theorem State.advance_xNat (s : State) (len : BitVec 64) (i : Reg) : (s.advance len).xNat i = s.xNat i := rfl
@[simp] theorem State.advance_xInt (s : State) (len : BitVec 64) (i : Reg) : (s.advance len).xInt i = s.xInt i := rfl
@[simp] theorem State.advance_xBit (s : State) (len : BitVec 64) (i : Reg) (k : Nat) :
    (s.advance len).xBit i k = s.xBit i k := rfl
@[simp] theorem State.advance_special (s : State) (len : BitVec 64) (r : Special) :
    (s.advance len).special r = s.special r := by cases r <;> rfl

/-! A register of a later state, as an earlier one names it. -/

theorem State.xIntIn_eq (s t : State) (i : Reg) : s.xIntIn t i = Int.bmod (s.xNatIn t i) (2 ^ s.W) := by
  rw [State.xIntIn, State.xNatIn, BitVec.toInt_eq_toNat_bmod]

@[simp] theorem State.xNatIn_self (s : State) (i : Reg) : s.xNatIn s i = s.xNat i := rfl
@[simp] theorem State.xIntIn_self (s : State) (i : Reg) : s.xIntIn s i = s.xInt i := rfl
@[simp] theorem State.xNatIn_advance (s t : State) (len : BitVec 64) (i : Reg) :
    s.xNatIn (t.advance len) i = s.xNatIn t i := rfl
@[simp] theorem State.xIntIn_advance (s t : State) (len : BitVec 64) (i : Reg) :
    s.xIntIn (t.advance len) i = s.xIntIn t i := rfl
@[simp] theorem State.xNatIn_putT (s t : State) (b : Bool) (i : Reg) : s.xNatIn (t.putT b) i = s.xNatIn t i := rfl
@[simp] theorem State.xIntIn_putT (s t : State) (b : Bool) (i : Reg) : s.xIntIn (t.putT b) i = s.xIntIn t i := rfl
@[simp] theorem State.xNatIn_putQ (s t : State) (b : Bool) (i : Reg) : s.xNatIn (t.putQ b) i = s.xNatIn t i := rfl
@[simp] theorem State.xIntIn_putQ (s t : State) (b : Bool) (i : Reg) : s.xIntIn (t.putQ b) i = s.xIntIn t i := rfl

/-- A general register after a write, as the state before names it. -/
theorem State.xNatIn_setX (s : State) (i : Reg) (v : BitVec s.W) : s.xNatIn (s.setX i v) i = v.toNat := s.xNat_setX i v

theorem State.xIntIn_setX (s : State) (i : Reg) (v : BitVec s.W) : s.xIntIn (s.setX i v) i = v.toInt := by
  rw [State.xIntIn_eq, State.xNatIn_setX, BitVec.toInt_eq_toNat_bmod]

/-! System and control registers. -/

theorem State.special_putSpecial_self (s : State) (r : Special) (v : BitVec 64) : (s.putSpecial r v).special r = v := by
  cases r <;> rfl

theorem State.special_putSpecial_of_ne (s : State) {q r : Special} (v : BitVec 64) (h : q ≠ r) :
    (s.putSpecial r v).special q = s.special q := by
  cases r <;> cases q <;> first | rfl | exact absurd rfl h

/-- A write of a system or control register leaves what `Wrote` says. -/
theorem State.wrote_writeSpecial (s : State) (r : Special) {w : Nat} (v : BitVec w) :
    Wrote s r v.toNat (s.writeSpecial r v) := by
  unfold Wrote State.writeSpecial
  rw [State.special_putSpecial_self]
  cases h : s.wide
  · simp only [State.merge, h, Bool.false_eq_true, if_false, BitVec.toNat_append, BitVec.extractLsb'_toNat,
      BitVec.toNat_setWidth]
    have h1 := (s.special r).isLt
    rw [Nat.shiftRight_eq_div_pow, Nat.mod_eq_of_lt (by omega : (s.special r).toNat / 2 ^ 32 < 2 ^ 32),
      Nat.shiftLeft_eq, Nat.mul_comm, ← Nat.two_pow_add_eq_or_of_lt (Nat.mod_lt _ (by norm_num))]
  · simp [State.merge, h]

theorem State.special_writeSpecial_of_ne (s : State) {q r : Special} {w : Nat} (v : BitVec w) (h : q ≠ r) :
    (s.writeSpecial r v).special q = s.special q := State.special_putSpecial_of_ne s _ h

/-- A write of a register other than `SR` leaves the general registers and their mapping. -/
theorem State.reg_writeSpecial (s : State) {r : Special} (hr : r ≠ .sr) {w : Nat} (v : BitVec w) (i : Reg) :
    (s.writeSpecial r v).reg i = s.reg i := by cases r <;> first | rfl | exact absurd rfl hr

/-! FPU registers. -/

theorem State.freg_putFreg (s : State) (i j : FReg) (r : Reg64) : (s.putFreg i r).freg j = if j = i then r else s.freg j := by
  have e : i.toFin = j.toFin ↔ j = i := by
    constructor
    · intro h; exact (BitVec.toFin_inj.1 h).symm
    · rintro rfl; rfl
  have h := get_set_sixteen s.fr i.toFin j.toFin r
  simp only [e] at h
  exact h

theorem State.freg_setF32 (s : State) (i j : FReg) (v : BitVec 32) :
    (s.setF32 i v).freg j = if j = i then ⟨Config.freeWord32 s.draws, v⟩ else s.freg j := s.freg_putFreg i j _

theorem State.freg_putF32 (s : State) (i j : FReg) (v : BitVec 32) :
    (s.putF32 i v).freg j = if j = i then ⟨(s.freg i).hi, v⟩ else s.freg j := s.freg_putFreg i j _

theorem State.freg_setF64 (s : State) (i j : FReg) (v : BitVec 64) :
    (s.setF64 i v).freg j = if j = i then Reg64.ofBits v else s.freg j := s.freg_putFreg i j _

theorem Reg64.append_ofBits (v : BitVec 64) : (Reg64.ofBits v).hi ++ (Reg64.ofBits v).lo = v := by
  simpa [Reg64.low] using Reg64.low_ofBits_sixtyfour v

theorem State.highOf_ne_lowOf (s : State) (i : FReg) (h : i.getLsbD 0 = false) : s.highOf i ≠ s.lowOf i := by
  unfold State.highOf State.lowOf
  cases s.params.pairHigh <;> simp only [pairRegisters, pairPartner]
  · revert i; decide
  · revert i; decide

/-- An FPU operand after a result is placed: the result, in the mode it was placed in. -/
theorem State.fv_fvSet (s : State) (md : FpMode) (i : FReg) (v : BitVec md.format.width) (h : md.takes i) :
    (s.fvSet md i v).fv md i = v := by
  cases md with
  | single =>
    show ((s.setF32 i v).freg i).lo = v
    rw [State.freg_setF32, if_pos rfl]
  | double =>
    show ((s.setF64 i v).freg i).hi ++ ((s.setF64 i v).freg i).lo = v
    rw [State.freg_setF64, if_pos rfl, Reg64.append_ofBits]
  | split =>
    have hne := s.highOf_ne_lowOf i (h rfl)
    show (((s.setF32 (s.highOf i) (v.extractLsb' 32 32)).setF32 (s.lowOf i) (v.extractLsb' 0 32)).freg (s.highOf i)).lo ++
      (((s.setF32 (s.highOf i) (v.extractLsb' 32 32)).setF32 (s.lowOf i) (v.extractLsb' 0 32)).freg (s.lowOf i)).lo = v
    rw [State.freg_setF32, State.freg_setF32, if_neg hne, if_pos rfl, State.freg_setF32, if_pos rfl]
    exact Reg64.append_ofBits v

/-! Frames. -/

theorem Frame.refl (f : Footprint) (hf : f.stored = []) (s : State) : Frame f s s := by
  constructor <;> intros <;> first | rfl | simp [hf]

/-- The other reading of a general register number: the same register from 8 on, the other bank below. -/
theorem State.regAt_not (s : State) (b : Bool) (i : Reg) :
    s.regAt (!b) i = if i.msb then s.regAt b i else s.otherAt b (i.setWidth 3) := by
  have e : low3 i = (i.setWidth 3).toFin := by apply Fin.ext; simp [low3]
  cases hi : i.msb <;> cases b <;> simp [State.regAt, State.otherAt, hi, e]

theorem State.otherAt_not (s : State) (b : Bool) (i : BankReg) : s.otherAt (!b) i = s.regAt b (i.setWidth 4) := by
  have e : low3 (i.setWidth 4) = i.toFin := by revert i; decide
  have hm : (BitVec.setWidth 4 i).msb = false := by revert i; decide
  cases b <;> simp [State.regAt, State.otherAt, e, hm]

/-- A frame without general registers leaves every one as it was, whichever bank is asked for. -/
theorem Frame.untouched {f : Footprint} {s t : State} (h : Frame f s t) (hr : f.regs = []) (ho : f.others = []) (b : Bool) :
    (∀ i, t.regAt b i = s.regAt b i) ∧ ∀ i, t.otherAt b i = s.otherAt b i := by
  have h1 : ∀ i, t.regAt s.bankBActive i = s.regAt s.bankBActive i := fun i => h.regs i (by simp [hr])
  have h2 : ∀ i, t.otherAt s.bankBActive i = s.otherAt s.bankBActive i := fun i => h.others i (by simp [ho])
  rcases Bool.eq_or_eq_not b s.bankBActive with rfl | rfl
  · exact ⟨h1, h2⟩
  · exact ⟨fun i => by rw [State.regAt_not, State.regAt_not, h1, h2], fun i => by rw [State.otherAt_not, State.otherAt_not, h1]⟩

/-- Two frames compose where the first keeps the mapping of the banks, or the second writes no general register. -/
theorem Frame.trans {f g h : Footprint} {s t u : State} (h1 : Frame f s t) (h2 : Frame g t u)
    (hbank : t.bankBActive = s.bankBActive ∨ (g.regs = [] ∧ g.others = []))
    (hregs : ∀ i, i ∉ h.regs → i ∉ f.regs ∧ i ∉ g.regs) (hothers : ∀ i, i ∉ h.others → i ∉ f.others ∧ i ∉ g.others)
    (hspecials : ∀ r, r ∉ h.specials → r ∉ f.specials ∧ r ∉ g.specials)
    (hsr : ∀ k, k ∉ h.srBits → k ∉ f.srBits ∧ k ∉ g.srBits) (hfregs : ∀ i, i ∉ h.fregs → i ∉ f.fregs ∧ i ∉ g.fregs)
    (hstored : h.stored = f.stored ++ g.stored) : Frame h s u where
  regs i hi := by
    rw [← h1.regs i (hregs i hi).1]
    rcases hbank with hb | ⟨hr, ho⟩
    · rw [← hb]; exact h2.regs i (hregs i hi).2
    · exact (h2.untouched hr ho _).1 i
  others i hi := by
    rw [← h1.others i (hothers i hi).1]
    rcases hbank with hb | ⟨hr, ho⟩
    · rw [← hb]; exact h2.others i (hothers i hi).2
    · exact (h2.untouched hr ho _).2 i
  specials r hr hi := (h2.specials r hr (hspecials r hi).2).trans (h1.specials r hr (hspecials r hi).1)
  base hi := (h2.base (hspecials _ hi).2).trans (h1.base (hspecials _ hi).1)
  status k hi := (h2.status k (hsr k hi).2).trans (h1.status k (hsr k hi).1)
  fregs i hi := (h2.fregs i (hfregs i hi).2).trans (h1.fregs i (hfregs i hi).1)
  memory a ha := (h2.memory a fun p hp => ha p (by simp [hstored, hp])).trans
    (h1.memory a fun p hp => ha p (by simp [hstored, hp]))
  tags := by rw [h2.tags, h1.tags, hstored, List.foldl_append, h1.params]
  asleep := h2.asleep.trans h1.asleep
  irqInput := h2.irqInput.trans h1.irqInput
  params := h2.params.trans h1.params

/-- A frame within a larger footprint that stores the same bytes. -/
theorem Frame.mono {f g : Footprint} {s t : State} (h : Frame f s t) (hregs : f.regs ⊆ g.regs) (hothers : f.others ⊆ g.others)
    (hspecials : f.specials ⊆ g.specials) (hsr : f.srBits ⊆ g.srBits) (hfregs : f.fregs ⊆ g.fregs)
    (hstored : g.stored = f.stored) : Frame g s t where
  regs i hi := h.regs i fun e => hi (hregs e)
  others i hi := h.others i fun e => hi (hothers e)
  specials r hr hi := h.specials r hr fun e => hi (hspecials e)
  base hi := h.base fun e => hi (hspecials e)
  status k hi := h.status k fun e => hi (hsr e)
  fregs i hi := h.fregs i fun e => hi (hfregs e)
  memory a ha := h.memory a (hstored ▸ ha)
  tags := by rw [h.tags, hstored]
  asleep := h.asleep
  irqInput := h.irqInput
  params := h.params

/-- Advancing the program counter keeps every frame. -/
theorem Frame.advance {f : Footprint} {s t : State} (h : Frame f s t) (len : BitVec 64) : Frame f s (t.advance len) where
  regs i hi := h.regs i hi
  others i hi := h.others i hi
  specials r hr hi := by rw [State.advance_special]; exact h.specials r hr hi
  base hi := h.base hi
  status k hi := h.status k hi
  fregs i hi := h.fregs i hi
  memory a ha := h.memory a ha
  tags := h.tags
  asleep := h.asleep
  irqInput := h.irqInput
  params := h.params

/-- Delaying a branch keeps every frame. -/
theorem Frame.delayTo {f : Footprint} {s t : State} (h : Frame f s t) (target len : BitVec 64) :
    Frame f s (t.delayTo target len) where
  regs i hi := h.regs i hi
  others i hi := h.others i hi
  specials r hr hi := by
    have e : (t.delayTo target len).special r = t.special r := by cases r <;> rfl
    rw [e]; exact h.specials r hr hi
  base hi := h.base hi
  status k hi := h.status k hi
  fregs i hi := h.fregs i hi
  memory a ha := h.memory a ha
  tags := h.tags
  asleep := h.asleep
  irqInput := h.irqInput
  params := h.params

theorem frame_setX (s : State) (i : Reg) {w : Nat} (v : BitVec w) : Frame { regs := [i] } s (s.setX i v) where
  regs j hj := State.reg_setX_of_ne s v (by simpa using hj)
  others j _ := s.otherReg_putReg i (s.image v) j
  specials r _ _ := by cases r <;> rfl
  base _ := rfl
  status _ _ := rfl
  fregs _ _ := rfl
  memory _ _ := rfl
  tags := rfl
  asleep := rfl
  irqInput := rfl
  params := rfl

theorem frame_setXLow (s : State) (i : Reg) (v : BitVec 32) : Frame { regs := [i] } s (s.setXLow i v) where
  regs j hj := (s.reg_putReg i j ⟨Config.freeWord32 s.draws, v⟩).trans (if_neg (by simpa using hj))
  others j _ := s.otherReg_putReg i ⟨Config.freeWord32 s.draws, v⟩ j
  specials r _ _ := by cases r <;> rfl
  base _ := rfl
  status _ _ := rfl
  fregs _ _ := rfl
  memory _ _ := rfl
  tags := rfl
  asleep := rfl
  irqInput := rfl
  params := rfl

theorem frame_setXFree (s : State) (i : Reg) : Frame { regs := [i] } s (s.setXFree i) where
  regs j hj := (s.reg_putReg i j _).trans (if_neg (by simpa using hj))
  others j _ := s.otherReg_putReg i _ j
  specials r _ _ := by cases r <;> rfl
  base _ := rfl
  status _ _ := rfl
  fregs _ _ := rfl
  memory _ _ := rfl
  tags := rfl
  asleep := rfl
  irqInput := rfl
  params := rfl

theorem frame_setXOther (s : State) (i : BankReg) {w : Nat} (v : BitVec w) : Frame { others := [i] } s (s.setXOther i v) where
  regs j _ := s.reg_putOtherReg i (s.image v) j
  others j hj := (s.otherReg_putOtherReg i j (s.image v)).trans (if_neg (by simpa using hj))
  specials r _ _ := by cases r <;> rfl
  base _ := rfl
  status _ _ := rfl
  fregs _ _ := rfl
  memory _ _ := rfl
  tags := rfl
  asleep := rfl
  irqInput := rfl
  params := rfl

theorem frame_putT (s : State) (b : Bool) : Frame { srBits := [0] } s (s.putT b) where
  regs _ _ := rfl
  others _ _ := rfl
  specials r hr _ := by cases r <;> first | rfl | exact absurd rfl hr
  base _ := rfl
  status k hk := by simp only [State.putT, getLsbD_putBit]; rw [if_neg (by simp_all)]
  fregs _ _ := rfl
  memory _ _ := rfl
  tags := rfl
  asleep := rfl
  irqInput := rfl
  params := rfl

theorem frame_putSatur (s : State) (b : Bool) : Frame { srBits := [1] } s (s.putSatur b) where
  regs _ _ := rfl
  others _ _ := rfl
  specials r hr _ := by cases r <;> first | rfl | exact absurd rfl hr
  base _ := rfl
  status k hk := by simp only [State.putSatur, getLsbD_putBit]; rw [if_neg (by simp_all)]
  fregs _ _ := rfl
  memory _ _ := rfl
  tags := rfl
  asleep := rfl
  irqInput := rfl
  params := rfl

theorem frame_putQ (s : State) (b : Bool) : Frame { srBits := [8] } s (s.putQ b) where
  regs _ _ := rfl
  others _ _ := rfl
  specials r hr _ := by cases r <;> first | rfl | exact absurd rfl hr
  base _ := rfl
  status k hk := by simp only [State.putQ, getLsbD_putBit]; rw [if_neg (by simp_all)]
  fregs _ _ := rfl
  memory _ _ := rfl
  tags := rfl
  asleep := rfl
  irqInput := rfl
  params := rfl

theorem frame_putM (s : State) (b : Bool) : Frame { srBits := [9] } s (s.putM b) where
  regs _ _ := rfl
  others _ _ := rfl
  specials r hr _ := by cases r <;> first | rfl | exact absurd rfl hr
  base _ := rfl
  status k hk := by simp only [State.putM, getLsbD_putBit]; rw [if_neg (by simp_all)]
  fregs _ _ := rfl
  memory _ _ := rfl
  tags := rfl
  asleep := rfl
  irqInput := rfl
  params := rfl

theorem frame_putDQ (s : State) (b : Bool) : Frame { srBits := [20] } s (s.putDQ b) where
  regs _ _ := rfl
  others _ _ := rfl
  specials r hr _ := by cases r <;> first | rfl | exact absurd rfl hr
  base _ := rfl
  status k hk := by simp only [State.putDQ, getLsbD_putBit]; rw [if_neg (by simp_all)]
  fregs _ _ := rfl
  memory _ _ := rfl
  tags := rfl
  asleep := rfl
  irqInput := rfl
  params := rfl

theorem frame_writeSpecial (s : State) {r : Special} (hr : r ≠ .sr) {w : Nat} (v : BitVec w) :
    Frame { specials := [r] } s (s.writeSpecial r v) := by
  have hsr : (s.writeSpecial r v).sr = s.sr := by cases r <;> first | rfl | exact absurd rfl hr
  have hfr : (s.writeSpecial r v).fr = s.fr := by cases r <;> first | rfl | exact absurd rfl hr
  constructor
  · intro j _; simp [State.reg, State.regAt]
  · intro j _; simp [State.otherReg, State.otherAt]
  · intro q _ hq; exact State.special_writeSpecial_of_ne s v (by simpa using hq)
  · intro hq; simp [Ne.symm (by simpa using hq : Special.vbr ≠ r)]
  · intro k _; rw [hsr]
  · intro j _; simp only [State.freg, hfr]
  all_goals simp

theorem frame_putFreg (s : State) (i : FReg) (r : Reg64) : Frame { fregs := [i] } s (s.putFreg i r) where
  regs _ _ := rfl
  others _ _ := rfl
  specials r _ _ := by cases r <;> rfl
  base _ := rfl
  status _ _ := rfl
  fregs j hj := (s.freg_putFreg i j r).trans (if_neg (by simpa using hj))
  memory _ _ := rfl
  tags := rfl
  asleep := rfl
  irqInput := rfl
  params := rfl

theorem frame_setF32 (s : State) (i : FReg) (v : BitVec 32) : Frame { fregs := [i] } s (s.setF32 i v) where
  regs _ _ := rfl
  others _ _ := rfl
  specials r _ _ := by cases r <;> rfl
  base _ := rfl
  status _ _ := rfl
  fregs j hj := (s.freg_setF32 i j v).trans (if_neg (by simpa using hj))
  memory _ _ := rfl
  tags := rfl
  asleep := rfl
  irqInput := rfl
  params := rfl

/-- An FPU result touches the registers of its field only. -/
theorem frame_fvSet (s : State) (md : FpMode) (i : FReg) (v : BitVec md.format.width) :
    Frame { fregs := s.fpRegs md i } s (s.fvSet md i v) := by
  cases md with
  | single => exact frame_setF32 s i v
  | double => exact frame_putFreg s i _
  | split =>
    refine Frame.trans (frame_setF32 s (s.highOf i) (v.extractLsb' 32 32)) (frame_setF32 _ (s.lowOf i) (v.extractLsb' 0 32))
      (.inl rfl) ?_ ?_ ?_ ?_ ?_ rfl <;> simp [State.fpRegs]

/-- A store in a canonical memory touches its bytes only. -/
theorem frame_putBytes (s : State) (hm : Memory.wf s.mem) (o : ByteOrder) (a : BitVec 64) (count v : Nat) :
    Frame { stored := [(a, count)] } s (s.putBytes o a count v) where
  regs _ _ := rfl
  others _ _ := rfl
  specials r _ _ := by cases r <;> rfl
  base _ := rfl
  status _ _ := rfl
  fregs _ _ := rfl
  memory x hx := Memory.read_writeBytes_of_outside hm (by simpa using hx (a, count) (by simp))
  tags := rfl
  asleep := rfl
  irqInput := rfl
  params := rfl

theorem frame_putFpulLow (s : State) (o : OpenWidth) (v : BitVec 64) : Frame { specials := [.fpul] } s (s.putFpulLow o v) where
  regs _ _ := rfl
  others _ _ := rfl
  specials r _ hr := by cases r <;> first | rfl | simp at hr
  base _ := rfl
  status _ _ := rfl
  fregs _ _ := rfl
  memory _ _ := rfl
  tags := rfl
  asleep := rfl
  irqInput := rfl
  params := rfl

/-- What the advance past an instruction says, for a state that has the delay slot, the program counter and `SR.AQ` of the state
before. -/
theorem advances_advance {s t : State} (len : BitVec 64) (hpc : t.pc = s.pc) (hslot : t.slot = s.slot) (haq : t.aq = s.aq) :
    Advances len s (t.advance len) where
  target sl h := by simp only [State.advance, hslot, h, State.ea, haq]
  next h := by simp only [State.advance, hslot, h, State.pcPlus, State.ea, haq, hpc]
  slot := rfl

/-- The memory stays canonical and a value reads back where its bytes were stored. -/
theorem State.valueAt_putBytes (s : State) (hm : Memory.wf s.mem) (o : ByteOrder) (a : BitVec 64) (count v : Nat) :
    ((s.putBytes o a count v).valueAt o a count).toNat = v % 2 ^ (8 * count) := by
  have h := Memory.readBytes_writeBytes (m := s.mem) (a := a.toNat) (bs := o.bytes count v) hm
  rw [ByteOrder.length_bytes] at h
  simp only [State.valueAt, State.putBytes, h, ByteOrder.value_bytes, BitVec.toNat_ofNat, Nat.mod_mod]

end Sys2Proof.Machine
end

