-- ==== Sys2Proof/Laws/Ops.lean ====
section
/-!
SUPPORT. What each shared operation does: the checks of an access, reads and writes of memory, the ends of an instruction, pushes
and pops, trap entry and return.
-/

namespace Sys2Proof.Machine

/-! Addresses. -/

@[simp] theorem normalise_normalise (aq : Bool) (a : BitVec 64) : normalise aq (normalise aq a) = normalise aq a := by
  cases aq
  · simp only [normalise, Bool.false_eq_true, if_false]
    congr 1
    apply BitVec.eq_of_getLsbD_eq
    intro k hk
    rw [BitVec.getLsbD_setWidth, BitVec.getLsbD_signExtend]
    simp [hk, show k < 64 by omega]
  · rfl

@[simp] theorem State.ea_ea (s : State) (a : BitVec 64) : s.ea (s.ea a) = s.ea a := normalise_normalise _ _

/-! The checks of an access. -/

theorem State.mem_areas (s : State) (a : BitVec 64) (count : Nat) (x : Area) :
    x ∈ s.areas a count ↔ ∃ k < count, areaAt s.params.platform (a.toNat + k) = x := by
  simp [State.areas]

/-- A read that can be made passes the checks of a read and of a fetch. -/
theorem State.checkAccess_of_reads {s : State} {kind : AccessKind} (hk : kind ≠ .write) {e : BitVec 64} {count align : Nat}
    (h : s.Reads e count align) : s.checkAccess kind e count align = .ok () := by
  have h1 : Area.absent ∉ s.areas e count := fun hm => by
    obtain ⟨k, hk, he⟩ := (s.mem_areas e count _).1 hm
    rcases h.present k hk with h | h <;> rw [he] at h <;> cases h
  have h2 : Area.device ∉ s.areas e count := fun hm => by
    obtain ⟨k, hk, he⟩ := (s.mem_areas e count _).1 hm
    rcases h.present k hk with h | h <;> rw [he] at h <;> cases h
  simp [State.checkAccess, h.aligned, h.canonical, h1, h2, hk]

/-- A write that can be made passes the checks of a write. -/
theorem State.checkAccess_of_writes {s : State} {kind : AccessKind} {e : BitVec 64} {count align : Nat}
    (h : s.Writes e count align) : s.checkAccess kind e count align = .ok () := by
  have h0 : ∀ x, x ≠ Area.ram → x ∉ s.areas e count := fun x hx hm => by
    obtain ⟨k, hk, he⟩ := (s.mem_areas e count _).1 hm
    exact hx (he ▸ h.present k hk)
  simp [State.checkAccess, h.aligned, h.canonical, h0 .absent (by decide), h0 .device (by decide), h0 .rom (by decide)]

/-- An access that misses raises `AddressError`. -/
theorem State.checkAccess_of_misses {s : State} {kind : AccessKind} {e : BitVec 64} {count align : Nat}
    (h : s.Misses e count align) : s.checkAccess kind e count align = .error (.raise (.addressError e kind) s) := by
  unfold State.checkAccess
  rw [if_pos]
  rcases h with h | h | h
  · exact .inl h
  · exact .inr (.inl h)
  · exact .inr (.inr ((s.mem_areas e count _).2 h))

/-- An access that touches a device is refused. -/
theorem State.checkAccess_of_onDevice {s : State} {kind : AccessKind} {e : BitVec 64} {count align : Nat}
    (h : s.OnDevice e count align) : s.checkAccess kind e count align = .error (.refuse .deviceAccess) := by
  have h1 : Area.absent ∉ s.areas e count := fun hm => by
    obtain ⟨k, hk, he⟩ := (s.mem_areas e count _).1 hm
    exact h.present k hk he
  simp [State.checkAccess, h.aligned, h.canonical, h1, (s.mem_areas e count _).2 h.device]

/-- A store that touches read-only memory, and memory only, is refused. -/
theorem State.checkAccess_of_onRom {s : State} {e : BitVec 64} {count align : Nat} (h : s.OnRom e count align) :
    s.checkAccess .write e count align = .error (.refuse .romWrite) := by
  have h0 : ∀ x, x ≠ Area.ram → x ≠ Area.rom → x ∉ s.areas e count := fun x h1 h2 hm => by
    obtain ⟨k, hk, he⟩ := (s.mem_areas e count _).1 hm
    rcases h.present k hk with h | h <;> rw [he] at h
    · exact h1 h
    · exact h2 h
  simp [State.checkAccess, h.aligned, h.canonical, h0 .absent (by decide) (by decide), h0 .device (by decide) (by decide),
    (s.mem_areas e count _).2 h.rom]

/-- Everything that the checks of an access can answer. -/
theorem State.checkAccess_cases (s : State) (kind : AccessKind) (e : BitVec 64) (count align : Nat) :
    s.checkAccess kind e count align = .ok () ∨
    s.checkAccess kind e count align = .error (.raise (.addressError e kind) s) ∨
    s.checkAccess kind e count align = .error (.refuse .deviceAccess) ∨
    s.checkAccess kind e count align = .error (.refuse .romWrite) := by
  unfold State.checkAccess
  split
  · simp
  · split
    · simp
    · split <;> simp

/-- What the checks of an access say of it when they pass. -/
theorem State.aligned_of_checkAccess {s : State} {kind : AccessKind} {e : BitVec 64} {count align : Nat}
    (h : s.checkAccess kind e count align = .ok ()) : e.toNat % align = 0 ∧ canonical e = true := by
  unfold State.checkAccess at h
  split at h
  · cases h
  · next hn => push Not at hn; exact ⟨hn.1, by simpa using hn.2.1⟩

/-! Reads and writes. -/

theorem State.readMem_of_reads {s : State} {o : ByteOrder} {a : BitVec 64} {count : Nat} (h : s.Reads (s.ea a) count count) :
    s.readMem o a count = .ok (s.valueAt o (s.ea a) count) := by
  simp [State.readMem, State.checkAccess_of_reads (by decide : AccessKind.read ≠ .write) h, bind, Except.bind, pure,
    Except.pure]

theorem State.readMem_of_misses {s : State} {o : ByteOrder} {a : BitVec 64} {count : Nat}
    (h : s.Misses (s.ea a) count count) : s.readMem o a count = .error (.raise (.addressError (s.ea a) .read) s) := by
  simp [State.readMem, State.checkAccess_of_misses h, bind, Except.bind]

/-- Everything that a read of memory can answer. -/
theorem State.readMem_cases (s : State) (o : ByteOrder) (a : BitVec 64) (count : Nat) :
    s.readMem o a count = .ok (s.valueAt o (s.ea a) count) ∨
    s.readMem o a count = .error (.raise (.addressError (s.ea a) .read) s) ∨
    s.readMem o a count = .error (.refuse .deviceAccess) ∨ s.readMem o a count = .error (.refuse .romWrite) := by
  rcases s.checkAccess_cases .read (s.ea a) count count with h | h | h | h <;>
    simp [State.readMem, h, bind, Except.bind, pure, Except.pure]

theorem State.writeMem_of_writes {s : State} {o : ByteOrder} {a : BitVec 64} {count w : Nat} {v : BitVec w}
    (h : s.Writes (s.ea a) count count) : s.writeMem o a count v = .ok (s.putBytes o (s.ea a) count v.toNat) := by
  simp [State.writeMem, State.checkAccess_of_writes h, bind, Except.bind, pure, Except.pure]

theorem State.writeMem_of_misses {s : State} {o : ByteOrder} {a : BitVec 64} {count w : Nat} {v : BitVec w}
    (h : s.Misses (s.ea a) count count) : s.writeMem o a count v = .error (.raise (.addressError (s.ea a) .write) s) := by
  simp [State.writeMem, State.checkAccess_of_misses h, bind, Except.bind]

/-- Everything that a write of memory can answer. -/
theorem State.writeMem_cases (s : State) (o : ByteOrder) (a : BitVec 64) (count : Nat) {w : Nat} (v : BitVec w) :
    s.writeMem o a count v = .ok (s.putBytes o (s.ea a) count v.toNat) ∨
    s.writeMem o a count v = .error (.raise (.addressError (s.ea a) .write) s) ∨
    s.writeMem o a count v = .error (.refuse .deviceAccess) ∨ s.writeMem o a count v = .error (.refuse .romWrite) := by
  rcases s.checkAccess_cases .write (s.ea a) count count with h | h | h | h <;>
    simp [State.writeMem, h, bind, Except.bind, pure, Except.pure]

theorem State.load_of_reads {s : State} {w : Nat} {a : BitVec w} {count : Nat}
    (h : s.Reads (s.ea (a.setWidth 64)) count count) :
    s.load a count = .ok ((s.valueAt s.localOrder (s.ea (a.setWidth 64)) count).signExtend s.W) := by
  simp [State.load, State.readMem_of_reads h, bind, Except.bind, pure, Except.pure]

theorem State.load_of_misses {s : State} {w : Nat} {a : BitVec w} {count : Nat}
    (h : s.Misses (s.ea (a.setWidth 64)) count count) :
    s.load a count = .error (.raise (.addressError (s.ea (a.setWidth 64)) .read) s) := by
  simp [State.load, State.readMem_of_misses h, bind, Except.bind]

/-- Everything that a load can answer. -/
theorem State.load_cases (s : State) {w : Nat} (a : BitVec w) (count : Nat) :
    (∃ v, s.load a count = .ok v) ∨ (∃ c, s.load a count = .error (.raise c s)) ∨
    (∃ r, s.load a count = .error (.refuse r)) := by
  rcases s.readMem_cases s.localOrder (a.setWidth 64) count with h | h | h | h <;>
    simp [State.load, h, bind, Except.bind, pure, Except.pure]

theorem State.store_of_writes {s : State} {wa w count : Nat} {a : BitVec wa} {v : BitVec w}
    (h : s.Writes (s.ea (a.setWidth 64)) count count) :
    s.store a count v = .ok (s.putBytes s.localOrder (s.ea (a.setWidth 64)) count v.toNat) :=
  State.writeMem_of_writes h

theorem State.store_of_misses {s : State} {wa w count : Nat} {a : BitVec wa} {v : BitVec w}
    (h : s.Misses (s.ea (a.setWidth 64)) count count) :
    s.store a count v = .error (.raise (.addressError (s.ea (a.setWidth 64)) .write) s) := State.writeMem_of_misses h

/-- Everything that a store can answer. -/
theorem State.store_cases (s : State) {wa w : Nat} (a : BitVec wa) (count : Nat) (v : BitVec w) :
    s.store a count v = .ok (s.putBytes s.localOrder (s.ea (a.setWidth 64)) count v.toNat) ∨
    (∃ c, s.store a count v = .error (.raise c s)) ∨ (∃ r, s.store a count v = .error (.refuse r)) := by
  rcases s.writeMem_cases s.localOrder (a.setWidth 64) count v with h | h | h | h <;> simp [State.store, h]

/-! The ends of an instruction. -/

@[simp] theorem finish_ok (t : State) (len : BitVec 64) : finish (.ok t) len = .next (t.advance len) := rfl

@[simp] theorem finish_raise (c : Cause) (t : State) (len : BitVec 64) : finish (.error (.raise c t)) len = trapEntry c t := rfl

@[simp] theorem finish_refuse (r : Refusal) (len : BitVec 64) : finish (.error (.refuse r)) len = .refused r := rfl

@[simp] theorem settle_ok (t : State) : settle (.ok t) = .next t := rfl

@[simp] theorem settle_raise (c : Cause) (t : State) : settle (.error (.raise c t)) = trapEntry c t := rfl

@[simp] theorem settle_refuse (r : Refusal) : settle (.error (.refuse r)) = .refused r := rfl

/-- An instruction that answers a next state within a footprint and leaves the program counter, the delay slot and `SR.AQ` to the
advance completes. -/
theorem completes_of_next {i : Instr} {s t : State} {f : Footprint} {Q : State → Prop}
    (h : exec i s = .next (t.advance 2)) (hf : Frame f s t) (hpc : t.pc = s.pc) (hslot : t.slot = s.slot) (haq : t.aq = s.aq)
    (hq : Q (t.advance 2)) : Completes i s f Q :=
  ⟨t.advance 2, h, hf.advance 2, advances_advance 2 hpc hslot haq, hq⟩

/-- An instruction that writes one register. -/
theorem yields_of_setX {i : Instr} {s : State} {n : Reg} {v : BitVec s.W} {k : Nat} (h : exec i s = .next ((s.setX n v).advance 2))
    (hv : v.toNat = k) : Yields i s n k :=
  completes_of_next h (frame_setX s n v) rfl rfl rfl ((s.xNat_setX n v).trans hv)

theorem yieldsInt_of_setX {i : Instr} {s : State} {n : Reg} {v : BitVec s.W} {k : Int}
    (h : exec i s = .next ((s.setX n v).advance 2)) (hv : v.toInt = k) : YieldsInt i s n k :=
  completes_of_next h (frame_setX s n v) rfl rfl rfl ((s.xInt_setX n v).trans hv)

theorem yieldsBits_of_setX {i : Instr} {s : State} {n : Reg} {v : BitVec s.W} {f : Nat → Bool}
    (h : exec i s = .next ((s.setX n v).advance 2)) (hv : ∀ k < s.W, v.getLsbD k = f k) : YieldsBits i s n f :=
  completes_of_next h (frame_setX s n v) rfl rfl rfl fun k hk => (s.xBit_setX n v k).trans (hv k hk)

theorem frame_setX_putT (s : State) (n : Reg) {w : Nat} (v : BitVec w) (b : Bool) :
    Frame { regs := [n], srBits := [0] } s ((s.setX n v).putT b) :=
  (frame_setX s n v).trans (frame_putT _ b) (.inl rfl) (by simp) (by simp) (by simp) (by simp) (by simp) rfl

/-- An instruction that writes one register and `T`. -/
theorem yieldsWithT_of_setX {i : Instr} {s : State} {n : Reg} {v : BitVec s.W} {b : Bool} {k : Nat} {p : Prop}
    (h : exec i s = .next (((s.setX n v).putT b).advance 2)) (hv : v.toNat = k) (hb : b = true ↔ p) :
    YieldsWithT i s n k p := by
  refine completes_of_next h (frame_setX_putT s n v b) rfl rfl (by simp) ⟨?_, ?_⟩
  · rw [State.xNatIn_advance, State.xNatIn_putT, State.xNatIn_setX, hv]
  · rw [State.advance_t, State.putT_t]; exact hb

/-- An instruction that writes `T`. -/
theorem setsT_of_putT {i : Instr} {s : State} {b : Bool} {p : Prop} (h : exec i s = .next ((s.putT b).advance 2))
    (hb : b = true ↔ p) : SetsT i s p := by
  refine completes_of_next h (frame_putT s b) rfl rfl (by simp) ?_
  rw [State.advance_t, State.putT_t]; exact hb

theorem wrote_advance {s t : State} {r : Special} {v : Nat} {len : BitVec 64} (h : Wrote s r v t) :
    Wrote s r v (t.advance len) := by
  unfold Wrote at *; rw [State.advance_special]; exact h

/-- An instruction that writes one system or control register. -/
theorem puts_of_writeSpecial {i : Instr} {s : State} {r : Special} (hr : r ≠ .sr) {w : Nat} {v : BitVec w} {k : Nat}
    (h : exec i s = .next ((s.writeSpecial r v).advance 2)) (hv : v.toNat = k) : Puts i s r k := by
  have hsr : (s.writeSpecial r v).sr = s.sr := by cases r <;> first | rfl | exact absurd rfl hr
  refine completes_of_next h (frame_writeSpecial s hr v) (by simp) (by simp) (by simp only [State.aq, hsr]) ?_
  exact ⟨wrote_advance (hv ▸ s.wrote_writeSpecial r v), fun h => by simp [h]⟩

/-! The checks before an instruction's own effect. -/

theorem State.mayRun_of_supervisor {s : State} (h : s.md = true) (i : Instr) : s.mayRun i = true := by simp [State.mayRun, h]

theorem State.mayRun_of_user {s : State} (h : s.md = false) (i : Instr) : s.mayRun i = !isIn s.params.privileged i := by
  simp [State.mayRun, h]

theorem State.requirePrivilege_of_mayRun {s : State} {i : Instr} (h : s.mayRun i = true) : s.requirePrivilege i = .ok () := by
  simp [State.requirePrivilege, State.require, h]

theorem State.requirePrivilege_of_not {s : State} {i : Instr} (h : s.mayRun i = false) :
    s.requirePrivilege i = .error (.raise .illegalInstruction s) := by
  simp [State.requirePrivilege, State.require, h]

theorem State.requireNoSlot_of_none {s : State} (h : s.slot = none) : s.requireNoSlot = .ok () := by
  simp [State.requireNoSlot, State.require, h]

theorem State.requireNoSlot_of_some {s : State} {sl : Slot} (h : s.slot = some sl) :
    s.requireNoSlot = .error (.raise .slotIllegal s) := by
  simp [State.requireNoSlot, State.require, h]

theorem State.requireFpu_of_enabled {s : State} (h : s.fd = false) : s.requireFpu = .ok () := by
  simp [State.requireFpu, State.require, h]

theorem State.requireFpu_of_disabled {s : State} (h : s.fd = true) : s.requireFpu = .error (.raise .fpuDisabled s) := by
  simp [State.requireFpu, State.require, h]

theorem State.requireFpuGroup_of_ready {s : State} (h : s.fd = false) (hb : s.fpBank = false) :
    s.requireFpuGroup = .ok () := by
  simp [State.requireFpuGroup, State.requireFpu_of_enabled h, demand, hb, bind, Except.bind]

theorem State.requireFpuGroup_of_disabled {s : State} (h : s.fd = true) :
    s.requireFpuGroup = .error (.raise .fpuDisabled s) := by
  simp [State.requireFpuGroup, State.requireFpu_of_disabled h, bind, Except.bind]

theorem State.requireFpMode_of_ready {s : State} {md : FpMode} (h : s.fpMode? = some md) : s.requireFpMode = .ok md := by
  simp [State.requireFpMode, h]

theorem requireOperand_of_takes {md : FpMode} {i : FReg} (h : md.takes i) : requireOperand md i = .ok () := by
  cases md <;> simp only [requireOperand, demand]
  · rfl
  · rw [if_pos]; simpa using h rfl
  · rfl

theorem State.requireFatLoad_of_ready {s : State} (h : s.slot = none) (hf : s.params.hasFatLoad = true) :
    s.requireFatLoad = .ok () := by
  simp [State.requireFatLoad, State.requireNoSlot_of_none h, demand, hf, bind, Except.bind]

/-! Widths of operands. -/

theorem State.W_le_of_le {s : State} {count : Nat} (h : count ≤ 4) : 8 * count ≤ s.W := by
  have := s.le_W; omega

theorem State.szWQ_le (s : State) : 8 * s.szWQ ≤ s.W := by
  unfold State.szWQ State.W State.wide
  cases s.dq <;> cases s.aq <;> simp

theorem State.szLQ_eq (s : State) : 8 * s.szLQ = s.W := by
  unfold State.szLQ State.W
  cases s.wide <;> simp

theorem toInt_signExtend_of_le' {w v : Nat} (x : BitVec w) (h : w ≤ v) : (x.signExtend v).toInt = x.toInt :=
  BitVec.toInt_signExtend_of_le h

/-! Loads, stores, pops and pushes. -/

/-- A load into a register of bytes that can be read. -/
theorem State.loadInto_of_reads {s : State} {w : Nat} {a : BitVec w} {count : Nat} {n : Reg}
    (h : s.Reads (s.ea (a.setWidth 64)) count count) :
    s.loadInto a count n =
      .next ((s.setX n ((s.valueAt s.localOrder (s.ea (a.setWidth 64)) count).signExtend s.W)).advance 2) := by
  simp [State.loadInto, State.load_of_reads h, bind, Except.bind, pure, Except.pure]

theorem State.loadInto_of_misses {s : State} {w : Nat} {a : BitVec w} {count : Nat} {n : Reg}
    (h : s.Misses (s.ea (a.setWidth 64)) count count) :
    s.loadInto a count n = trapEntry (.addressError (s.ea (a.setWidth 64)) .read) s := by
  simp [State.loadInto, State.load_of_misses h, bind, Except.bind]

/-- An instruction that is a load into a register is a load form. -/
theorem loads_of_loadInto {i : Instr} {s : State} {w : Nat} {a : BitVec w} {count : Nat} {n : Reg}
    (h : exec i s = s.loadInto a count n) (hc : 8 * count ≤ s.W) : Loads i s (a.setWidth 64) count n := by
  refine ⟨fun hr => ?_, fun hm => ?_⟩
  · refine completes_of_next (h.trans (State.loadInto_of_reads hr)) (frame_setX s n _) rfl rfl rfl ?_
    rw [State.advance_xInt, State.xInt_setX, BitVec.toInt_signExtend_of_le hc]
  · exact h.trans (State.loadInto_of_misses hm)

/-- An instruction that is a pop into a register is a post-increment load. -/
theorem pops_of_popInto {i : Instr} {s : State} {m n : Reg} {count : Nat} (h : exec i s = s.popInto m n count)
    (hc : 8 * count ≤ s.W) : Pops i s m n count := by
  refine ⟨fun hr => ?_, fun hm => ?_⟩
  · by_cases hn : n = m
    · subst hn
      refine completes_of_next (t := s.setX n ((s.valueAt s.localOrder (s.ea ((s.x n).setWidth 64)) count).signExtend s.W))
        (h.trans ?_) ((frame_setX s n _).mono (by simp) (by simp) (by simp) (by simp) (by simp) rfl) rfl rfl rfl ?_
      · simp [State.popInto, State.load_of_reads hr, bind, Except.bind, pure, Except.pure]
      · rw [State.advance_xInt, State.xInt_setX, BitVec.toInt_signExtend_of_le hc]
        exact ⟨rfl, fun hne => absurd rfl hne⟩
    · refine completes_of_next (t := (s.setX m (s.x m + BitVec.ofNat s.W count)).setX n
        ((s.valueAt s.localOrder (s.ea ((s.x m).setWidth 64)) count).signExtend s.W)) (h.trans ?_)
        ((frame_setX s m _).trans (frame_setX _ n _) (.inl rfl) ?_ ?_ ?_ ?_ ?_ rfl) rfl rfl rfl ?_
      · simp [State.popInto, State.load_of_reads hr, hn, bind, Except.bind, pure, Except.pure]
      · intro i hi; simp at hi; simp [hi]
      · simp
      · simp
      · simp
      · simp
      · rw [State.advance_xInt, State.advance_xNat, State.xNat_setX_of_ne _ _ (Ne.symm hn), State.xNat_setX,
          BitVec.toNat_add, BitVec.toNat_ofNat, Nat.add_mod_mod]
        refine ⟨?_, fun _ => rfl⟩
        exact ((s.setX m _).xInt_setX n _).trans (BitVec.toInt_signExtend_of_le hc)
  · simp [Traps, h, State.popInto, State.load_of_misses hm, bind, Except.bind]

theorem State.storeAt_of_writes {s : State} {a v : BitVec s.W} {count : Nat}
    (h : s.Writes (s.ea (a.setWidth 64)) count count) :
    s.storeAt a count v = .next ((s.putBytes s.localOrder (s.ea (a.setWidth 64)) count v.toNat).advance 2) := by
  simp [State.storeAt, State.store_of_writes h]

theorem State.storeAt_of_misses {s : State} {a v : BitVec s.W} {count : Nat}
    (h : s.Misses (s.ea (a.setWidth 64)) count count) :
    s.storeAt a count v = trapEntry (.addressError (s.ea (a.setWidth 64)) .write) s := by
  simp [State.storeAt, State.store_of_misses h]

/-- An instruction that is a store at an address is a store form. -/
theorem stores_of_storeAt {i : Instr} {s : State} (hm : Memory.wf s.mem) {a v : BitVec s.W} {count : Nat}
    (h : exec i s = s.storeAt a count v) : Stores i s (a.setWidth 64) count v.toNat := by
  refine ⟨fun hw => ?_, fun hx => h.trans (State.storeAt_of_misses hx)⟩
  exact completes_of_next (h.trans (State.storeAt_of_writes hw)) (frame_putBytes s hm _ _ _ _) rfl rfl rfl
    (s.valueAt_putBytes hm _ _ _ _)

/-- A pre-decrement store of bytes that can be written. -/
theorem State.pushAt_of_writes {s : State} {n : Reg} {count : Nat} {v : BitVec s.W}
    (h : s.Writes (s.ea (s.below n count)) count count) :
    s.pushAt n count v = .ok ((s.putBytes s.localOrder (s.ea (s.below n count)) count v.toNat).setX n
      (s.x n - BitVec.ofNat s.W count)) := by
  simp [State.pushAt, State.store_of_writes (s := s) (a := s.x n - BitVec.ofNat s.W count) h, bind, Except.bind, pure,
    Except.pure, State.below]

theorem State.pushAt_of_misses {s : State} {n : Reg} {count : Nat} {v : BitVec s.W}
    (h : s.Misses (s.ea (s.below n count)) count count) :
    s.pushAt n count v = .error (.raise (.addressError (s.ea (s.below n count)) .write) s) := by
  simp [State.pushAt, State.store_of_misses (s := s) (a := s.x n - BitVec.ofNat s.W count) h, bind, Except.bind, State.below]

/-- An instruction that is a pre-decrement store. -/
theorem pushes_of_pushAt {i : Instr} {s : State} (hm : Memory.wf s.mem) {n : Reg} {count : Nat} {v : BitVec s.W}
    (h : exec i s = finish (s.pushAt n count v)) : Pushes i s n count v.toNat := by
  refine ⟨fun hw => ?_, fun hx => by rw [Traps, h, State.pushAt_of_misses hx, finish_raise]⟩
  refine completes_of_next (h.trans (by rw [State.pushAt_of_writes hw, finish_ok]))
    ((frame_putBytes s hm _ _ _ _).trans (frame_setX _ n _) (.inl rfl) ?_ ?_ ?_ ?_ ?_ rfl) rfl rfl rfl ⟨?_, ?_⟩
  · intro i hi; simpa using hi
  · simp
  · simp
  · simp
  · simp
  · exact s.valueAt_putBytes hm _ _ _ _
  · rw [State.advance_xNat]
    rw [State.xNat_setX_self, State.putBytes_W, Nat.mod_eq_of_lt (BitVec.isLt _), BitVec.toNat_sub, BitVec.toNat_ofNat,
      State.xNat]
    have h1 := (s.x n).isLt
    have h2 : 0 < 2 ^ s.W := Nat.two_pow_pos _
    rw [show ((2 : Int) ^ s.W) = ((2 ^ s.W : Nat) : Int) by push_cast; rfl]
    generalize (s.x n).toNat = p at *
    generalize 2 ^ s.W = q at *
    have h3 := Nat.mod_lt count h2
    have h4 := Nat.div_add_mod count q
    push_cast [Nat.cast_sub h3.le]
    rw [show ((q : Int) - (count : Int) % q + p) = (p - count) + q * (1 + (count : Int) / q) by
      have := Int.mul_ediv_add_emod (count : Int) q; linarith]
    exact Int.add_mul_emod_self_left _ _ _

/-- A post-increment load of bytes that can be read. -/
theorem State.popAt_of_reads {s : State} {m : Reg} {count : Nat} (h : s.Reads (s.ea ((s.x m).setWidth 64)) count count) :
    s.popAt m count = .ok ((s.valueAt s.localOrder (s.ea ((s.x m).setWidth 64)) count).signExtend s.W,
      s.setX m (s.x m + BitVec.ofNat s.W count)) := by
  simp [State.popAt, State.load_of_reads h, bind, Except.bind, pure, Except.pure]

theorem State.popAt_of_misses {s : State} {m : Reg} {count : Nat} (h : s.Misses (s.ea ((s.x m).setWidth 64)) count count) :
    s.popAt m count = .error (.raise (.addressError (s.ea ((s.x m).setWidth 64)) .read) s) := by
  simp [State.popAt, State.load_of_misses h, bind, Except.bind]

/-- A value of as many bytes as a register has keeps its number when it is extended to the width of the register. -/
theorem State.toNat_signExtend_szLQ (s : State) (v : BitVec (8 * s.szLQ)) : (v.signExtend s.W).toNat = v.toNat := by
  have h := s.szLQ_eq
  have hv := v.isLt
  rw [BitVec.signExtend_eq_setWidth_of_le _ (by omega), BitVec.toNat_setWidth, Nat.mod_eq_of_lt (h ▸ hv)]

theorem State.sr_writeSpecial (s : State) {r : Special} (hr : r ≠ .sr) {w : Nat} (v : BitVec w) :
    (s.writeSpecial r v).sr = s.sr := by
  cases r <;> first | rfl | exact absurd rfl hr

theorem State.W_writeSpecial (s : State) {r : Special} (hr : r ≠ .sr) {w : Nat} (v : BitVec w) :
    (s.writeSpecial r v).W = s.W := by
  have h : (s.writeSpecial r v).wide = s.wide := by simp only [State.wide, State.dq, State.aq, s.sr_writeSpecial hr v]
  unfold State.W
  rw [h]

/-- A write of one special register after a write of one general register, from the state before both. -/
theorem State.wrote_setX_writeSpecial (s : State) (m : Reg) {w w' : Nat} (v : BitVec w) (r : Special) (x : BitVec w') :
    Wrote s r x.toNat ((s.setX m v).writeSpecial r x) := by
  have h := (s.setX m v).wrote_writeSpecial r x
  have e : (s.setX m v).special r = s.special r := by cases r <;> rfl
  unfold Wrote at *
  rw [h, e, State.setX_wide]

/-- An instruction that is a pop of a system or control register. -/
theorem popsTo_of_popAt {i : Instr} {s : State} {m : Reg} {r : Special} (hr : r ≠ .sr)
    (h : exec i s = finish (do
      let (v, s1) ← s.popAt m s.szLQ
      pure (s1.writeSpecial r v))) : PopsTo i s m r := by
  refine ⟨fun hR => ?_, fun hX => by rw [Traps, h, State.popAt_of_misses hX]; rfl⟩
  rw [State.popAt_of_reads hR] at h
  refine completes_of_next h ((frame_setX s m _).trans (frame_writeSpecial _ hr _) (.inl rfl) (by simp) (by simp) (by simp) (by simp)
    (by simp) rfl) (by simp) (by simp) ?_ ⟨wrote_advance ?_, ?_, fun h => by simp [h]⟩
  · simp only [State.aq, State.sr_writeSpecial _ hr, State.setX_sr]
  · rw [← s.toNat_signExtend_szLQ]
    exact s.wrote_setX_writeSpecial m _ r _
  · rw [State.advance_xNat, State.xNat_congr (State.reg_writeSpecial _ hr _ m) (State.W_writeSpecial _ hr _),
      State.xNat_setX, BitVec.toNat_add, BitVec.toNat_ofNat, Nat.add_mod_mod]
    rfl

/-! Trap entry. -/

/-- Everything that trap entry can answer: the saved context with the program counter at the handler, where `VBR` was written; the
fault of a vector base that was not, or of a vector that raises; or a refusal of a vector on a device. -/
theorem trapEntry_cases (c : Cause) (s : State) :
    (s.vbrWritten = true ∧ trapEntry c s = .next { s.saveContext c with
        pc := (s.saveContext c).ea (((s.saveContext c).valueAt (s.saveContext c).machineOrder
          ((s.saveContext c).ea ((s.saveContext c).vectorAddress c)) (s.saveContext c).vecBytes).signExtend 64) }) ∨
    trapEntry c s = .fault .vectorBase ∨ trapEntry c s = .fault .vectorFetch ∨ trapEntry c s = .refused .deviceAccess ∨
    trapEntry c s = .refused .romWrite := by
  unfold trapEntry
  by_cases hv : s.vbrWritten = true
  case neg => exact .inr (.inl (if_neg hv))
  simp only [hv, if_true]
  rcases (s.saveContext c).readMem_cases (s.saveContext c).machineOrder ((s.saveContext c).vectorAddress c)
    (s.saveContext c).vecBytes with h | h | h | h <;> simp [h]

end Sys2Proof.Machine
end

