-- ==== Sys2Proof/Laws/Fetch.lean ====
section
/-!
SUPPORT. What the fetch does: a fetched word, the state after it, and that the words of one fetch are always an instruction.
-/

namespace Sys2Proof.Machine

/-- The state after the words at some even addresses are tagged as executed: nothing but the tags differs. -/
structure Fetched (s t : State) : Prop where
  /-- Only the tags differ. -/
  same : t = { s with xtag := t.xtag }
  /-- The tags stay in their canonical form. -/
  tags : Tags.wf s.xtag → Tags.wf t.xtag
  /-- The tags stay at even addresses. -/
  even : (∀ u ∈ s.xtag, u.addr % 2 = 0) → ∀ u ∈ t.xtag, u.addr % 2 = 0

theorem Fetched.refl (s : State) : Fetched s s := ⟨rfl, id, id⟩

theorem Fetched.trans {s t u : State} (h1 : Fetched s t) (h2 : Fetched t u) : Fetched s u :=
  ⟨by rw [h2.same, h1.same], h2.tags ∘ h1.tags, h2.even ∘ h1.even⟩

/-- The fetch of a word that can be fetched. -/
theorem State.fetchWord_of_fetches {s : State} {a : BitVec 64} (h : s.Fetches a) :
    s.fetchWord a = .ok (s.valueAt s.machineOrder a 2,
      { s with xtag := Tags.record s.xtag ⟨a.toNat, s.modeFlags, false⟩ }) := by
  have h1 : s.flagsClash a = false := by
    unfold State.flagsClash
    split
    · next u hu => simp [h.flags u hu]
    · rfl
  have h2 : Tags.dirtyAt s.params.icacheShift a.toNat s.xtag = false := by
    refine List.any_eq_false.2 fun u hu hd => ?_
    simp only [Bool.and_eq_true] at hd
    simp [h.clean u hu hd.1] at hd
  simp [State.fetchWord, State.checkAccess_of_reads (kind := .fetch) (by decide) h.reads, h1, h2, bind, Except.bind]

/-- A word that can be fetched can still be fetched after another one was. -/
theorem State.Fetches.after {s : State} {a : BitVec 64} (h : s.Fetches a) (b : BitVec 64) :
    ({ s with xtag := Tags.record s.xtag ⟨b.toNat, s.modeFlags, false⟩ } : State).Fetches a := by
  refine ⟨⟨h.reads.aligned, h.reads.canonical, h.reads.present⟩, fun u hu => ?_, fun u hu hd => ?_⟩
  · rw [Tags.find_record] at hu
    split at hu
    · cases hu; rfl
    · exact h.flags u hu
  · rcases Tags.mem_record hu with hu | rfl
    · exact h.clean u hu hd
    · cases hd

/-- Everything that the fetch of a word can answer. -/
theorem State.fetchWord_cases (s : State) (a : BitVec 64) :
    (∃ t, s.fetchWord a = .ok (s.valueAt s.machineOrder a 2, t) ∧ Fetched s t) ∨
    s.fetchWord a = .error (.raise (.addressError a .fetch) s) ∨ (∃ f, s.fetchWord a = .error (.fault f)) ∨
    (∃ r, s.fetchWord a = .error (.refuse r)) := by
  unfold State.fetchWord
  rcases h : s.checkAccess .fetch a 2 2 with e | u
  · rcases s.checkAccess_cases .fetch a 2 2 with h' | h' | h' | h' <;> rw [h] at h' <;> simp_all [bind, Except.bind]
  · simp only [bind, Except.bind]
    split
    · simp
    · split
      · simp
      · refine .inl ⟨_, rfl, rfl, fun ht => Tags.wf_record ht, fun he u hu => ?_⟩
        rcases Tags.mem_record hu with hu | rfl
        · exact he u hu
        · exact (State.aligned_of_checkAccess h).1

/-- Everything that the fetch of further words can answer. -/
theorem State.fetchMore_cases (count : Nat) (offset : BitVec 64) (s : State) :
    (∃ ws t, State.fetchMore count offset s = .ok (ws, t) ∧ ws.length = count ∧ Fetched s t) ∨
    (∃ c t, State.fetchMore count offset s = .error (.raise c t) ∧ Fetched s t) ∨
    (∃ f, State.fetchMore count offset s = .error (.fault f)) ∨
    (∃ r, State.fetchMore count offset s = .error (.refuse r)) := by
  induction count generalizing offset s with
  | zero => exact .inl ⟨[], s, rfl, rfl, .refl s⟩
  | succ n ih =>
    rcases s.fetchWord_cases (s.pcPlus offset) with ⟨t, h, ht⟩ | h | ⟨f, h⟩ | ⟨r, h⟩
    · rcases ih (offset + 2) t with ⟨ws, u, h2, hl, hu⟩ | ⟨c, u, h2, hu⟩ | ⟨f, h2⟩ | ⟨r, h2⟩
      · exact .inl ⟨s.valueAt s.machineOrder (s.pcPlus offset) 2 :: ws, u,
          by simp only [State.fetchMore, h, h2, bind, Except.bind, pure, Except.pure], by simp [hl], ht.trans hu⟩
      · exact .inr (.inl ⟨c, u, by simp only [State.fetchMore, h, h2, bind, Except.bind], ht.trans hu⟩)
      · exact .inr (.inr (.inl ⟨f, by simp only [State.fetchMore, h, h2, bind, Except.bind]⟩))
      · exact .inr (.inr (.inr ⟨r, by simp only [State.fetchMore, h, h2, bind, Except.bind]⟩))
    · exact .inr (.inl ⟨.addressError (s.pcPlus offset) .fetch, s, by simp only [State.fetchMore, h, bind, Except.bind], .refl s⟩)
    · exact .inr (.inr (.inl ⟨f, by simp only [State.fetchMore, h, bind, Except.bind]⟩))
    · exact .inr (.inr (.inr ⟨r, by simp only [State.fetchMore, h, bind, Except.bind]⟩))

theorem decodeFatL_complete {w1 : InstrWord} {ws : List InstrWord} (h : ws.length = extensionWords false 0x008B#16 w1) :
    ∃ i rest, decodeFatL (w1 :: ws) = .ok (i, rest) := by
  match ws, h with
  | [], h =>
    simp only [extensionWords, List.length_nil, if_true] at h
    split at h
    · cases h
    · next hn =>
      push Not at hn
      unfold decodeFatL
      split <;> simp_all
  | w2 :: tail, _ =>
    unfold decodeFatL
    simp only
    split <;> exact ⟨_, _, rfl⟩

theorem decodeFatQ_complete {odd : Bool} {w1 : InstrWord} {ws : List InstrWord}
    (h : ws.length = extensionWords odd 0x009B#16 w1) : ∃ i rest, decodeFatQ odd (w1 :: ws) = .ok (i, rest) := by
  unfold decodeFatQ
  simp only [extensionWords, if_neg (by decide : ¬ (0x009B#16 : InstrWord) = 0x008B#16)] at h ⊢
  by_cases he : nibble3 w1 = 0xE#4
  · have h := h.trans (if_pos he)
    simp only [if_pos he]
    cases odd
    · match ws, h with
      | [w2, w3], _ => exact ⟨_, _, rfl⟩
    · match ws, h with
      | [w2, w3, w4], _ => exact ⟨_, _, rfl⟩
  · simp only [if_neg he]
    exact ⟨_, _, rfl⟩

/-- Everything that the fetch of an instruction can answer: words that the decoder takes, with nothing but the tags changed, or
an abandoned instruction. -/
theorem State.fetchWords_cases (s : State) :
    (∃ ws t i rest, s.fetchWords = .ok (ws, t) ∧ decode s.wordParity ws = .ok (i, rest) ∧ Fetched s t) ∨
    (∃ c t, s.fetchWords = .error (.raise c t) ∧ Fetched s t) ∨ (∃ f, s.fetchWords = .error (.fault f)) ∨
    (∃ r, s.fetchWords = .error (.refuse r)) := by
  rcases s.fetchWord_cases s.pc with ⟨t, h, ht⟩ | h | ⟨f, h⟩ | ⟨r, h⟩
  · by_cases hp : s.params.hasFatLoad = true ∧
        (s.valueAt s.machineOrder s.pc 2 = 0x008B#16 ∨ s.valueAt s.machineOrder s.pc 2 = 0x009B#16)
    · rcases t.fetchWord_cases (s.pcPlus 2) with ⟨u, h2, hu⟩ | h2 | ⟨f, h2⟩ | ⟨r, h2⟩
      · rcases State.fetchMore_cases (extensionWords s.wordParity (s.valueAt s.machineOrder s.pc 2)
          (t.valueAt t.machineOrder (s.pcPlus 2) 2)) 4 u with ⟨ws, v, h3, hl, hv⟩ | ⟨c, v, h3, hv⟩ | ⟨f, h3⟩ | ⟨r, h3⟩
        · refine .inl ?_
          have e : s.fetchWords = .ok (s.valueAt s.machineOrder s.pc 2 :: t.valueAt t.machineOrder (s.pcPlus 2) 2 :: ws, v) := by
            simp only [State.fetchWords, h, bind, Except.bind]
            rw [if_pos hp]
            simp only [h2, h3, pure, Except.pure]
          rcases hp.2 with hw | hw
          · rw [hw] at hl e
            obtain ⟨i, rest, hd⟩ := decodeFatL_complete (w1 := t.valueAt t.machineOrder (s.pcPlus 2) 2) (ws := ws)
              (by rw [hl]; rfl)
            exact ⟨_, v, i, rest, e, hd, (ht.trans hu).trans hv⟩
          · rw [hw] at hl e
            obtain ⟨i, rest, hd⟩ := decodeFatQ_complete (w1 := t.valueAt t.machineOrder (s.pcPlus 2) 2) (ws := ws) hl
            exact ⟨_, v, i, rest, e, (decode_of_prefixQ _ _).trans hd, (ht.trans hu).trans hv⟩
        · refine .inr (.inl ⟨c, v, ?_, (ht.trans hu).trans hv⟩)
          simp only [State.fetchWords, h, bind, Except.bind]
          rw [if_pos hp]
          simp only [h2, h3]
        · refine .inr (.inr (.inl ⟨f, ?_⟩))
          simp only [State.fetchWords, h, bind, Except.bind]
          rw [if_pos hp]
          simp only [h2, h3]
        · refine .inr (.inr (.inr ⟨r, ?_⟩))
          simp only [State.fetchWords, h, bind, Except.bind]
          rw [if_pos hp]
          simp only [h2, h3]
      · refine .inr (.inl ⟨.addressError (s.pcPlus 2) .fetch, t, ?_, ht⟩)
        simp only [State.fetchWords, h, bind, Except.bind]
        rw [if_pos hp]
        simp only [h2]
      · refine .inr (.inr (.inl ⟨f, ?_⟩))
        simp only [State.fetchWords, h, bind, Except.bind]
        rw [if_pos hp]
        simp only [h2]
      · refine .inr (.inr (.inr ⟨r, ?_⟩))
        simp only [State.fetchWords, h, bind, Except.bind]
        rw [if_pos hp]
        simp only [h2]
    · have e : s.fetchWords = .ok ([s.valueAt s.machineOrder s.pc 2], t) := by
        simp only [State.fetchWords, h, bind, Except.bind]
        rw [if_neg hp]
        rfl
      refine .inl ?_
      by_cases h1 : s.valueAt s.machineOrder s.pc 2 = 0x008B#16
      · exact ⟨_, t, .ldfatL, [], e, by rw [h1]; rfl, ht⟩
      · by_cases h2 : s.valueAt s.machineOrder s.pc 2 = 0x009B#16
        · exact ⟨_, t, .ldfatQ, [], e, by rw [h2]; simp [decode, decodeFatQ], ht⟩
        · exact ⟨_, t, _, [], e, decode_of_plain _ h1 h2 _, ht⟩
  · exact .inr (.inl ⟨.addressError s.pc .fetch, s, by simp only [State.fetchWords, h, bind, Except.bind], .refl s⟩)
  · exact .inr (.inr (.inl ⟨f, by simp only [State.fetchWords, h, bind, Except.bind]⟩))
  · exact .inr (.inr (.inr ⟨r, by simp only [State.fetchWords, h, bind, Except.bind]⟩))

end Sys2Proof.Machine
end

