-- ==== Sys2Proof/Laws/PerInstr.lean ====
section
/-!
SUPPORT. The family of statements made for every instruction one by one: how many words an instruction's encoding has
(30 R140, 49 R471).
-/

namespace Sys2Proof.Laws.EncodedLength

/-- The number of words of an instruction: one, but for the fat layouts (49 R471, R478). -/
def words : Instr → Nat
  | .ldfatMov24 _ _ => 3
  | .ldfatMov40 _ _ => 4
  | .ldfatMov56 _ _ => 5
  | .ldfatBra _ => 3
  | .ldfatBsr _ => 3
  | .fatBsr44 _ => 4
  | .fatBsr60 _ => 5
  | _ => 1

/-- The encoding of an instruction has the number of words that its rule gives it. -/
def Statement (i : Instr) : Prop := (encode i).length = words i

theorem stcSr (n : Reg) : Statement (.stcSr n) := rfl
theorem stcGbr (n : Reg) : Statement (.stcGbr n) := rfl
theorem stcVbr (n : Reg) : Statement (.stcVbr n) := rfl
theorem stcSsr (n : Reg) : Statement (.stcSsr n) := rfl
theorem stcSpc (n : Reg) : Statement (.stcSpc n) := rfl
theorem stcDbr (n : Reg) : Statement (.stcDbr n) := rfl
theorem stcBank (m : BankReg) (n : Reg) : Statement (.stcBank m n) := rfl
theorem bsrf (m : Reg) : Statement (.bsrf m) := rfl
theorem bsaf (m : Reg) : Statement (.bsaf m) := rfl
theorem pref (n : Reg) : Statement (.pref n) := rfl
theorem movcaL (n : Reg) : Statement (.movcaL n) := rfl
theorem movBStoreIdx (m : Reg) (n : Reg) : Statement (.movBStoreIdx m n) := rfl
theorem movWqStoreIdx (m : Reg) (n : Reg) : Statement (.movWqStoreIdx m n) := rfl
theorem movLStoreIdx (m : Reg) (n : Reg) : Statement (.movLStoreIdx m n) := rfl
theorem mulLq (m : Reg) (n : Reg) : Statement (.mulLq m n) := rfl
theorem movt (n : Reg) : Statement (.movt n) := rfl
theorem stsMach (n : Reg) : Statement (.stsMach n) := rfl
theorem stsMacl (n : Reg) : Statement (.stsMacl n) := rfl
theorem stsPr (n : Reg) : Statement (.stsPr n) := rfl
theorem stsFpul (n : Reg) : Statement (.stsFpul n) := rfl
theorem stsFpscr (n : Reg) : Statement (.stsFpscr n) := rfl
theorem movBLoadIdx (m : Reg) (n : Reg) : Statement (.movBLoadIdx m n) := rfl
theorem movWqLoadIdx (m : Reg) (n : Reg) : Statement (.movWqLoadIdx m n) := rfl
theorem movLLoadIdx (m : Reg) (n : Reg) : Statement (.movLLoadIdx m n) := rfl
theorem macL (m : Reg) (n : Reg) : Statement (.macL m n) := rfl
theorem movLStoreDisp (m : Reg) (n : Reg) (d : BitVec 4) : Statement (.movLStoreDisp m n d) := rfl
theorem movBStore (m : Reg) (n : Reg) : Statement (.movBStore m n) := rfl
theorem movWqStore (m : Reg) (n : Reg) : Statement (.movWqStore m n) := rfl
theorem movLStore (m : Reg) (n : Reg) : Statement (.movLStore m n) := rfl
theorem casL (m : Reg) (n : Reg) : Statement (.casL m n) := rfl
theorem movBPush (m : Reg) (n : Reg) : Statement (.movBPush m n) := rfl
theorem movWqPush (m : Reg) (n : Reg) : Statement (.movWqPush m n) := rfl
theorem movLPush (m : Reg) (n : Reg) : Statement (.movLPush m n) := rfl
theorem div0s (m : Reg) (n : Reg) : Statement (.div0s m n) := rfl
theorem tst (m : Reg) (n : Reg) : Statement (.tst m n) := rfl
theorem and (m : Reg) (n : Reg) : Statement (.and m n) := rfl
theorem xor (m : Reg) (n : Reg) : Statement (.xor m n) := rfl
theorem or (m : Reg) (n : Reg) : Statement (.or m n) := rfl
theorem cmpstr (m : Reg) (n : Reg) : Statement (.cmpstr m n) := rfl
theorem xtrct (m : Reg) (n : Reg) : Statement (.xtrct m n) := rfl
theorem muluWl (m : Reg) (n : Reg) : Statement (.muluWl m n) := rfl
theorem mulsWl (m : Reg) (n : Reg) : Statement (.mulsWl m n) := rfl
theorem cmpeq (m : Reg) (n : Reg) : Statement (.cmpeq m n) := rfl
theorem cmphs (m : Reg) (n : Reg) : Statement (.cmphs m n) := rfl
theorem cmpge (m : Reg) (n : Reg) : Statement (.cmpge m n) := rfl
theorem div1 (m : Reg) (n : Reg) : Statement (.div1 m n) := rfl
theorem dmuluLq (m : Reg) (n : Reg) : Statement (.dmuluLq m n) := rfl
theorem cmphi (m : Reg) (n : Reg) : Statement (.cmphi m n) := rfl
theorem cmpgt (m : Reg) (n : Reg) : Statement (.cmpgt m n) := rfl
theorem sub (m : Reg) (n : Reg) : Statement (.sub m n) := rfl
theorem subc (m : Reg) (n : Reg) : Statement (.subc m n) := rfl
theorem subv (m : Reg) (n : Reg) : Statement (.subv m n) := rfl
theorem add (m : Reg) (n : Reg) : Statement (.add m n) := rfl
theorem dmulsLq (m : Reg) (n : Reg) : Statement (.dmulsLq m n) := rfl
theorem addc (m : Reg) (n : Reg) : Statement (.addc m n) := rfl
theorem addv (m : Reg) (n : Reg) : Statement (.addv m n) := rfl
theorem shll (n : Reg) : Statement (.shll n) := rfl
theorem dt (n : Reg) : Statement (.dt n) := rfl
theorem shal (n : Reg) : Statement (.shal n) := rfl
theorem shlr (n : Reg) : Statement (.shlr n) := rfl
theorem cmppz (n : Reg) : Statement (.cmppz n) := rfl
theorem shar (n : Reg) : Statement (.shar n) := rfl
theorem stsMachPush (n : Reg) : Statement (.stsMachPush n) := rfl
theorem stsMaclPush (n : Reg) : Statement (.stsMaclPush n) := rfl
theorem stsPrPush (n : Reg) : Statement (.stsPrPush n) := rfl
theorem stsFpulPush (n : Reg) : Statement (.stsFpulPush n) := rfl
theorem stsFpscrPush (n : Reg) : Statement (.stsFpscrPush n) := rfl
theorem stcSrPush (n : Reg) : Statement (.stcSrPush n) := rfl
theorem stcGbrPush (n : Reg) : Statement (.stcGbrPush n) := rfl
theorem stcVbrPush (n : Reg) : Statement (.stcVbrPush n) := rfl
theorem stcSsrPush (n : Reg) : Statement (.stcSsrPush n) := rfl
theorem stcSpcPush (n : Reg) : Statement (.stcSpcPush n) := rfl
theorem stcDbrPush (n : Reg) : Statement (.stcDbrPush n) := rfl
theorem stcBankPush (m : BankReg) (n : Reg) : Statement (.stcBankPush m n) := rfl
theorem rotl (n : Reg) : Statement (.rotl n) := rfl
theorem rotcl (n : Reg) : Statement (.rotcl n) := rfl
theorem extuL (n : Reg) : Statement (.extuL n) := rfl
theorem extsL (n : Reg) : Statement (.extsL n) := rfl
theorem bswapL (n : Reg) : Statement (.bswapL n) := rfl
theorem bswapQ (n : Reg) : Statement (.bswapQ n) := rfl
theorem swapL (n : Reg) : Statement (.swapL n) := rfl
theorem rotr (n : Reg) : Statement (.rotr n) := rfl
theorem cmppl (n : Reg) : Statement (.cmppl n) := rfl
theorem rotcr (n : Reg) : Statement (.rotcr n) := rfl
theorem ldsMachPop (m : Reg) : Statement (.ldsMachPop m) := rfl
theorem ldsMaclPop (m : Reg) : Statement (.ldsMaclPop m) := rfl
theorem ldsPrPop (m : Reg) : Statement (.ldsPrPop m) := rfl
theorem ldsFpulPop (m : Reg) : Statement (.ldsFpulPop m) := rfl
theorem ldsFpscrPop (m : Reg) : Statement (.ldsFpscrPop m) := rfl
theorem ldcSrPop (m : Reg) : Statement (.ldcSrPop m) := rfl
theorem ldcGbrPop (m : Reg) : Statement (.ldcGbrPop m) := rfl
theorem ldcVbrPop (m : Reg) : Statement (.ldcVbrPop m) := rfl
theorem ldcSsrPop (m : Reg) : Statement (.ldcSsrPop m) := rfl
theorem ldcSpcPop (m : Reg) : Statement (.ldcSpcPop m) := rfl
theorem ldcDbrPop (m : Reg) : Statement (.ldcDbrPop m) := rfl
theorem ldcBankPop (m : Reg) (n : BankReg) : Statement (.ldcBankPop m n) := rfl
theorem shll2 (n : Reg) : Statement (.shll2 n) := rfl
theorem shll8 (n : Reg) : Statement (.shll8 n) := rfl
theorem shll16 (n : Reg) : Statement (.shll16 n) := rfl
theorem shlr2 (n : Reg) : Statement (.shlr2 n) := rfl
theorem shlr8 (n : Reg) : Statement (.shlr8 n) := rfl
theorem shlr16 (n : Reg) : Statement (.shlr16 n) := rfl
theorem ldsMach (m : Reg) : Statement (.ldsMach m) := rfl
theorem ldsMacl (m : Reg) : Statement (.ldsMacl m) := rfl
theorem ldsPr (m : Reg) : Statement (.ldsPr m) := rfl
theorem ldsFpul (m : Reg) : Statement (.ldsFpul m) := rfl
theorem ldsFpscr (m : Reg) : Statement (.ldsFpscr m) := rfl
theorem jsr (m : Reg) : Statement (.jsr m) := rfl
theorem tasB (m : Reg) : Statement (.tasB m) := rfl
theorem jmp (m : Reg) : Statement (.jmp m) := rfl
theorem shad (m : Reg) (n : Reg) : Statement (.shad m n) := rfl
theorem shld (m : Reg) (n : Reg) : Statement (.shld m n) := rfl
theorem ldcSr (m : Reg) : Statement (.ldcSr m) := rfl
theorem ldcGbr (m : Reg) : Statement (.ldcGbr m) := rfl
theorem ldcVbr (m : Reg) : Statement (.ldcVbr m) := rfl
theorem ldcSsr (m : Reg) : Statement (.ldcSsr m) := rfl
theorem ldcSpc (m : Reg) : Statement (.ldcSpc m) := rfl
theorem ldcDbr (m : Reg) : Statement (.ldcDbr m) := rfl
theorem ldcBank (m : Reg) (n : BankReg) : Statement (.ldcBank m n) := rfl
theorem macWq (m : Reg) (n : Reg) : Statement (.macWq m n) := rfl
theorem movLLoadDisp (m : Reg) (d : BitVec 4) (n : Reg) : Statement (.movLLoadDisp m d n) := rfl
theorem movBLoad (m : Reg) (n : Reg) : Statement (.movBLoad m n) := rfl
theorem movWqLoad (m : Reg) (n : Reg) : Statement (.movWqLoad m n) := rfl
theorem movLLoad (m : Reg) (n : Reg) : Statement (.movLLoad m n) := rfl
theorem mov (m : Reg) (n : Reg) : Statement (.mov m n) := rfl
theorem movBPop (m : Reg) (n : Reg) : Statement (.movBPop m n) := rfl
theorem movWqPop (m : Reg) (n : Reg) : Statement (.movWqPop m n) := rfl
theorem movLPop (m : Reg) (n : Reg) : Statement (.movLPop m n) := rfl
theorem not (m : Reg) (n : Reg) : Statement (.not m n) := rfl
theorem swapB (m : Reg) (n : Reg) : Statement (.swapB m n) := rfl
theorem swapW (m : Reg) (n : Reg) : Statement (.swapW m n) := rfl
theorem negc (m : Reg) (n : Reg) : Statement (.negc m n) := rfl
theorem neg (m : Reg) (n : Reg) : Statement (.neg m n) := rfl
theorem extuB (m : Reg) (n : Reg) : Statement (.extuB m n) := rfl
theorem extsB (m : Reg) (n : Reg) : Statement (.extsB m n) := rfl
theorem extuW (m : Reg) (n : Reg) : Statement (.extuW m n) := rfl
theorem extsW (m : Reg) (n : Reg) : Statement (.extsW m n) := rfl
theorem addImm (i : BitVec 8) (n : Reg) : Statement (.addImm i n) := rfl
theorem movBStoreR0Disp (n : Reg) (d : BitVec 4) : Statement (.movBStoreR0Disp n d) := rfl
theorem movWqStoreR0Disp (n : Reg) (d : BitVec 4) : Statement (.movWqStoreR0Disp n d) := rfl
theorem movWStoreR0 (n : Reg) : Statement (.movWStoreR0 n) := rfl
theorem movBLoadR0Disp (m : Reg) (d : BitVec 4) : Statement (.movBLoadR0Disp m d) := rfl
theorem movWqLoadR0Disp (m : Reg) (d : BitVec 4) : Statement (.movWqLoadR0Disp m d) := rfl
theorem movWLoadR0 (m : Reg) : Statement (.movWLoadR0 m) := rfl
theorem cmpeqImm (i : BitVec 8) : Statement (.cmpeqImm i) := rfl
theorem bt (d : BitVec 8) : Statement (.bt d) := rfl
theorem bf (d : BitVec 8) : Statement (.bf d) := rfl
theorem ldsh8 (i : BitVec 8) : Statement (.ldsh8 i) := rfl
theorem bts (d : BitVec 8) : Statement (.bts d) := rfl
theorem bfs (d : BitVec 8) : Statement (.bfs d) := rfl
theorem movWqLoadDisp (m : Reg) (d : BitVec 4) (n : Reg) : Statement (.movWqLoadDisp m d n) := rfl
theorem movWLoad (m : Reg) (n : Reg) : Statement (.movWLoad m n) := rfl
theorem bra (d : BitVec 12) : Statement (.bra d) := rfl
theorem bsr (d : BitVec 12) : Statement (.bsr d) := rfl
theorem movBStoreGbr (d : BitVec 8) : Statement (.movBStoreGbr d) := rfl
theorem movWqStoreGbr (d : BitVec 8) : Statement (.movWqStoreGbr d) := rfl
theorem movLStoreGbr (d : BitVec 8) : Statement (.movLStoreGbr d) := rfl
theorem trapa (j : BitVec 8) : Statement (.trapa j) := rfl
theorem movBLoadGbr (d : BitVec 8) : Statement (.movBLoadGbr d) := rfl
theorem movWqLoadGbr (d : BitVec 8) : Statement (.movWqLoadGbr d) := rfl
theorem movLLoadGbr (d : BitVec 8) : Statement (.movLLoadGbr d) := rfl
theorem mova (d : BitVec 8) : Statement (.mova d) := rfl
theorem tstImm (j : BitVec 8) : Statement (.tstImm j) := rfl
theorem andImm (j : BitVec 8) : Statement (.andImm j) := rfl
theorem xorImm (j : BitVec 8) : Statement (.xorImm j) := rfl
theorem orImm (j : BitVec 8) : Statement (.orImm j) := rfl
theorem tstB (j : BitVec 8) : Statement (.tstB j) := rfl
theorem andB (j : BitVec 8) : Statement (.andB j) := rfl
theorem xorB (j : BitVec 8) : Statement (.xorB j) := rfl
theorem orB (j : BitVec 8) : Statement (.orB j) := rfl
theorem movLqLoadPc (d : BitVec 8) (n : Reg) : Statement (.movLqLoadPc d n) := rfl
theorem movImm (i : BitVec 8) (n : Reg) : Statement (.movImm i n) := rfl
theorem fadd (m : FReg) (n : FReg) : Statement (.fadd m n) := rfl
theorem fsub (m : FReg) (n : FReg) : Statement (.fsub m n) := rfl
theorem fmul (m : FReg) (n : FReg) : Statement (.fmul m n) := rfl
theorem fdiv (m : FReg) (n : FReg) : Statement (.fdiv m n) := rfl
theorem fcmpeq (m : FReg) (n : FReg) : Statement (.fcmpeq m n) := rfl
theorem fcmpgt (m : FReg) (n : FReg) : Statement (.fcmpgt m n) := rfl
theorem fmovLoadIdx (m : Reg) (n : FReg) : Statement (.fmovLoadIdx m n) := rfl
theorem fmovStoreIdx (m : FReg) (n : Reg) : Statement (.fmovStoreIdx m n) := rfl
theorem fmovLoad (m : Reg) (n : FReg) : Statement (.fmovLoad m n) := rfl
theorem fmovPop (m : Reg) (n : FReg) : Statement (.fmovPop m n) := rfl
theorem fmovStore (m : FReg) (n : Reg) : Statement (.fmovStore m n) := rfl
theorem fmovPush (m : FReg) (n : Reg) : Statement (.fmovPush m n) := rfl
theorem fmov (m : FReg) (n : FReg) : Statement (.fmov m n) := rfl
theorem fsts (n : FReg) : Statement (.fsts n) := rfl
theorem flds (m : FReg) : Statement (.flds m) := rfl
theorem float (n : FReg) : Statement (.float n) := rfl
theorem ftrc (m : FReg) : Statement (.ftrc m) := rfl
theorem fneg (n : FReg) : Statement (.fneg n) := rfl
theorem fabs (n : FReg) : Statement (.fabs n) := rfl
theorem fsqrt (n : FReg) : Statement (.fsqrt n) := rfl
theorem fldi0 (n : FReg) : Statement (.fldi0 n) := rfl
theorem fldi1 (n : FReg) : Statement (.fldi1 n) := rfl
theorem fcnvsd (n : FReg) : Statement (.fcnvsd n) := rfl
theorem fcnvds (m : FReg) : Statement (.fcnvds m) := rfl
theorem fmac (m : FReg) (n : FReg) : Statement (.fmac m n) := rfl
theorem ldfatMov24 (imm : BitVec 24) (n : Reg) : Statement (.ldfatMov24 imm n) := rfl
theorem ldfatMov40 (imm : BitVec 40) (n : Reg) : Statement (.ldfatMov40 imm n) := rfl
theorem ldfatMov56 (imm : BitVec 56) (n : Reg) : Statement (.ldfatMov56 imm n) := rfl
theorem ldfatBra (d : BitVec 28) : Statement (.ldfatBra d) := rfl
theorem ldfatBsr (d : BitVec 28) : Statement (.ldfatBsr d) := rfl
theorem fatBsr44 (d : BitVec 44) : Statement (.fatBsr44 d) := rfl
theorem fatBsr60 (d : BitVec 60) : Statement (.fatBsr60 d) := rfl
theorem ocbi (x : BitVec 4) : Statement (.ocbi x) := rfl
theorem ocbp (x : BitVec 4) : Statement (.ocbp x) := rfl
theorem ocbwb (x : BitVec 4) : Statement (.ocbwb x) := rfl
theorem movrt (x : BitVec 4) : Statement (.movrt x) := rfl
theorem stcTbr (x : BitVec 4) : Statement (.stcTbr x) := rfl
theorem rtvN (x : BitVec 4) : Statement (.rtvN x) := rfl
theorem mulr (x : BitVec 4) : Statement (.mulr x) := rfl
theorem movmuPush (x : BitVec 4) : Statement (.movmuPush x) := rfl
theorem clipuB (x : BitVec 4) : Statement (.clipuB x) := rfl
theorem clipsB (x : BitVec 4) : Statement (.clipsB x) := rfl
theorem stbank (x : BitVec 4) : Statement (.stbank x) := rfl
theorem movmlPush (x : BitVec 4) : Statement (.movmlPush x) := rfl
theorem divu (x : BitVec 4) : Statement (.divu x) := rfl
theorem movmuPop (x : BitVec 4) : Statement (.movmuPop x) := rfl
theorem clipuW (x : BitVec 4) : Statement (.clipuW x) := rfl
theorem clipsW (x : BitVec 4) : Statement (.clipsW x) := rfl
theorem ldbank (x : BitVec 4) : Statement (.ldbank x) := rfl
theorem movmlPop (x : BitVec 4) : Statement (.movmlPop x) := rfl
theorem ldcTbr (x : BitVec 4) : Statement (.ldcTbr x) := rfl
theorem jsrN (x : BitVec 4) : Statement (.jsrN x) := rfl
theorem movBR0Post (x : BitVec 4) : Statement (.movBR0Post x) := rfl
theorem movWR0Post (x : BitVec 4) : Statement (.movWR0Post x) := rfl
theorem movLR0Post (x : BitVec 4) : Statement (.movLR0Post x) := rfl
theorem movBR0Pre (x : BitVec 4) : Statement (.movBR0Pre x) := rfl
theorem movWR0Pre (x : BitVec 4) : Statement (.movWR0Pre x) := rfl
theorem movLR0Pre (x : BitVec 4) : Statement (.movLR0Pre x) := rfl
theorem jsrN8 (x : BitVec 8) : Statement (.jsrN8 x) := rfl
theorem bset (x : BitVec 8) : Statement (.bset x) := rfl
theorem bst (x : BitVec 8) : Statement (.bst x) := rfl
theorem ftrv (x : BitVec 4) : Statement (.ftrv x) := rfl
theorem fipr (x : BitVec 4) : Statement (.fipr x) := rfl
theorem unused (w : InstrWord) : Statement (.unused w) := rfl
theorem reserved (w : InstrWord) : Statement (.reserved w) := rfl
theorem unlisted (w : InstrWord) : Statement (.unlisted w) := rfl
theorem clrt : Statement .clrt := rfl
theorem sett : Statement .sett := rfl
theorem clrmac : Statement .clrmac := rfl
theorem clrs : Statement .clrs := rfl
theorem sets : Statement .sets := rfl
theorem clrdq : Statement .clrdq := rfl
theorem setdq : Statement .setdq := rfl
theorem flushtlb : Statement .flushtlb := rfl
theorem invtlb : Statement .invtlb := rfl
theorem nop : Statement .nop := rfl
theorem div0u : Statement .div0u := rfl
theorem rts : Statement .rts := rfl
theorem sleep : Statement .sleep := rfl
theorem rte : Statement .rte := rfl
theorem brk : Statement .brk := rfl
theorem ldfatL : Statement .ldfatL := rfl
theorem ldfatQ : Statement .ldfatQ := rfl
theorem fschg : Statement .fschg := rfl
theorem ldtlb : Statement .ldtlb := rfl
theorem nott : Statement .nott := rfl
theorem resbank : Statement .resbank := rfl
theorem rtsN : Statement .rtsN := rfl
theorem frchg : Statement .frchg := rfl

end Sys2Proof.Laws.EncodedLength
end

