-- ==== Sys2Proof/Tests/Slice0.lean ====
section
/-!
SUPPORT. Tests: ill-formed terms that the check refuses, words of the opcode table, the examples of the rules run through one step,
and for each statement of Certificates/Slice0/Obligations.lean states that meet its hypotheses.
-/

namespace Sys2Proof.Tests

open Sys2Proof Sys2Proof.Machine

set_option maxRecDepth 20000

/-! Well-formed terms. -/

/-- A displacement of 0 belongs to the Word row (30 R154). -/
theorem test_refuses_storeR0Disp_zero : (Instr.movWqStoreR0Disp 3 0).wellFormed = false := by decide

/-- The same for the load into `R0`. -/
theorem test_refuses_loadR0Disp_zero : (Instr.movWqLoadR0Disp 3 0).wellFormed = false := by decide

/-- The same for the load into any register. -/
theorem test_refuses_loadDisp_zero : (Instr.movWqLoadDisp 3 0 7).wellFormed = false := by decide

/-- An unused slot is one of 30 R150: the word of `NOP` is not. -/
theorem test_refuses_unused_nop : (Instr.unused 0x0009).wellFormed = false := by decide

/-- A reserved word is one of 30 R151. -/
theorem test_refuses_reserved_nop : (Instr.reserved 0x0009).wellFormed = false := by decide

/-- A word without a row is one of 30 R152. -/
theorem test_refuses_unlisted_nop : (Instr.unlisted 0x0009).wellFormed = false := by decide

/-- The two fat `BSR` layouts begin no instruction (49 R478). -/
theorem test_refuses_fatBsr : (Instr.fatBsr44 0).wellFormed = false ∧ (Instr.fatBsr60 0).wellFormed = false := by decide

/-- Terms beside the refused ones are well formed. -/
theorem test_accepts : (Instr.movWqLoadDisp 3 1 7).wellFormed = true ∧ (Instr.unused 0x0062).wellFormed = true ∧
    (Instr.reserved 0x0000).wellFormed = true ∧ (Instr.unlisted 0x0108).wellFormed = true ∧
    (Instr.ldfatMov56 0xFFFFFFFFFFFFFF 15).wellFormed = true := by
  decide

/-! Words of the opcode table. -/

/-- Words spelled bit by bit from the patterns of the table, one for each group. -/
theorem test_decode_bits :
    decodeWord 0b0000001110100010 = .stcBank 2 3 ∧ decodeWord 0b0001111100010010 = .movLStoreDisp 1 15 2 ∧
    decodeWord 0b0010001000010011 = .casL 1 2 ∧ decodeWord 0b0011001000010100 = .div1 1 2 ∧
    decodeWord 0b0100001110101110 = .ldcBank 3 2 ∧ decodeWord 0b0101001000010010 = .movLLoadDisp 1 2 2 ∧
    decodeWord 0b0110000111110101 = .movWqPop 15 1 ∧ decodeWord 0b0111111111111100 = .addImm 0xFC 15 ∧
    decodeWord 0b1000111111111110 = .bfs 0xFE ∧ decodeWord 0b1001000111110010 = .movWqLoadDisp 15 2 1 ∧
    decodeWord 0b1010000000000100 = .bra 4 ∧ decodeWord 0b1011000001111110 = .bsr 0x7E ∧
    decodeWord 0b1100001100100000 = .trapa 0x20 ∧ decodeWord 0b1101000100000010 = .movLqLoadPc 2 1 ∧
    decodeWord 0b1110000100000101 = .movImm 5 1 ∧ decodeWord 0b1111001011111001 = .fmovPop 15 2 := by
  decide

/-- One word of each row of group 0 (40), from its encoding in the opcode table. -/
theorem test_decode_0a :
    decodeWord 0x0502 = .stcSr 0x5 ∧ decodeWord 0x0512 = .stcGbr 0x5 ∧ decodeWord 0x0522 = .stcVbr 0x5 ∧
    decodeWord 0x0532 = .stcSsr 0x5 ∧ decodeWord 0x0542 = .stcSpc 0x5 ∧ decodeWord 0x0552 = .stcDbr 0x5 ∧
    decodeWord 0x05B2 = .stcBank 0x3 0x5 ∧ decodeWord 0x0A03 = .bsrf 0xA ∧ decodeWord 0x0A23 = .bsaf 0xA ∧
    decodeWord 0x0583 = .pref 0x5 ∧ decodeWord 0x05C3 = .movcaL 0x5 ∧ decodeWord 0x05A4 = .movBStoreIdx 0xA 0x5 ∧
    decodeWord 0x05A5 = .movWqStoreIdx 0xA 0x5 ∧ decodeWord 0x05A6 = .movLStoreIdx 0xA 0x5 ∧
    decodeWord 0x05A7 = .mulLq 0xA 0x5 ∧ decodeWord 0x0008 = .clrt ∧ decodeWord 0x0018 = .sett ∧ decodeWord 0x0028 = .clrmac ∧
    decodeWord 0x0048 = .clrs ∧ decodeWord 0x0058 = .sets ∧ decodeWord 0x0088 = .clrdq ∧ decodeWord 0x0098 = .setdq ∧
    decodeWord 0x00A8 = .flushtlb ∧ decodeWord 0x00B8 = .invtlb ∧ decodeWord 0x0009 = .nop ∧ decodeWord 0x0019 = .div0u := by
  decide

/-- One word of each row of group 0 (40), from its encoding in the opcode table. -/
theorem test_decode_0b :
    decodeWord 0x0529 = .movt 0x5 ∧ decodeWord 0x050A = .stsMach 0x5 ∧ decodeWord 0x051A = .stsMacl 0x5 ∧
    decodeWord 0x052A = .stsPr 0x5 ∧ decodeWord 0x055A = .stsFpul 0x5 ∧ decodeWord 0x056A = .stsFpscr 0x5 ∧
    decodeWord 0x000B = .rts ∧ decodeWord 0x001B = .sleep ∧ decodeWord 0x002B = .rte ∧ decodeWord 0x003B = .brk ∧
    decodeWord 0x008B = .ldfatL ∧ decodeWord 0x009B = .ldfatQ ∧ decodeWord 0x05AC = .movBLoadIdx 0xA 0x5 ∧
    decodeWord 0x05AD = .movWqLoadIdx 0xA 0x5 ∧ decodeWord 0x05AE = .movLLoadIdx 0xA 0x5 ∧
    decodeWord 0x05AF = .macL 0xA 0x5 := by
  decide

/-- One word of each row of group 2 (41), from its encoding in the opcode table. -/
theorem test_decode_2 :
    decodeWord 0x25A0 = .movBStore 0xA 0x5 ∧ decodeWord 0x25A1 = .movWqStore 0xA 0x5 ∧ decodeWord 0x25A2 = .movLStore 0xA 0x5 ∧
    decodeWord 0x25A3 = .casL 0xA 0x5 ∧ decodeWord 0x25A4 = .movBPush 0xA 0x5 ∧ decodeWord 0x25A5 = .movWqPush 0xA 0x5 ∧
    decodeWord 0x25A6 = .movLPush 0xA 0x5 ∧ decodeWord 0x25A7 = .div0s 0xA 0x5 ∧ decodeWord 0x25A8 = .tst 0xA 0x5 ∧
    decodeWord 0x25A9 = .and 0xA 0x5 ∧ decodeWord 0x25AA = .xor 0xA 0x5 ∧ decodeWord 0x25AB = .or 0xA 0x5 ∧
    decodeWord 0x25AC = .cmpstr 0xA 0x5 ∧ decodeWord 0x25AD = .xtrct 0xA 0x5 ∧ decodeWord 0x25AE = .muluWl 0xA 0x5 ∧
    decodeWord 0x25AF = .mulsWl 0xA 0x5 := by
  decide

/-- One word of each row of group 3 (42), from its encoding in the opcode table. -/
theorem test_decode_3 :
    decodeWord 0x35A0 = .cmpeq 0xA 0x5 ∧ decodeWord 0x35A2 = .cmphs 0xA 0x5 ∧ decodeWord 0x35A3 = .cmpge 0xA 0x5 ∧
    decodeWord 0x35A4 = .div1 0xA 0x5 ∧ decodeWord 0x35A5 = .dmuluLq 0xA 0x5 ∧ decodeWord 0x35A6 = .cmphi 0xA 0x5 ∧
    decodeWord 0x35A7 = .cmpgt 0xA 0x5 ∧ decodeWord 0x35A8 = .sub 0xA 0x5 ∧ decodeWord 0x35AA = .subc 0xA 0x5 ∧
    decodeWord 0x35AB = .subv 0xA 0x5 ∧ decodeWord 0x35AC = .add 0xA 0x5 ∧ decodeWord 0x35AD = .dmulsLq 0xA 0x5 ∧
    decodeWord 0x35AE = .addc 0xA 0x5 ∧ decodeWord 0x35AF = .addv 0xA 0x5 := by
  decide

/-- One word of each row of group 4 (43, 44), from its encoding in the opcode table. -/
theorem test_decode_4a :
    decodeWord 0x4500 = .shll 0x5 ∧ decodeWord 0x4510 = .dt 0x5 ∧ decodeWord 0x4520 = .shal 0x5 ∧
    decodeWord 0x4501 = .shlr 0x5 ∧ decodeWord 0x4511 = .cmppz 0x5 ∧ decodeWord 0x4521 = .shar 0x5 ∧
    decodeWord 0x4502 = .stsMachPush 0x5 ∧ decodeWord 0x4512 = .stsMaclPush 0x5 ∧ decodeWord 0x4522 = .stsPrPush 0x5 ∧
    decodeWord 0x4552 = .stsFpulPush 0x5 ∧ decodeWord 0x4562 = .stsFpscrPush 0x5 ∧ decodeWord 0x4503 = .stcSrPush 0x5 ∧
    decodeWord 0x4513 = .stcGbrPush 0x5 ∧ decodeWord 0x4523 = .stcVbrPush 0x5 ∧ decodeWord 0x4533 = .stcSsrPush 0x5 ∧
    decodeWord 0x4543 = .stcSpcPush 0x5 ∧ decodeWord 0x4553 = .stcDbrPush 0x5 ∧ decodeWord 0x45B3 = .stcBankPush 0x3 0x5 ∧
    decodeWord 0x4504 = .rotl 0x5 ∧ decodeWord 0x4524 = .rotcl 0x5 ∧ decodeWord 0x4544 = .extuL 0x5 ∧
    decodeWord 0x4554 = .extsL 0x5 ∧ decodeWord 0x4564 = .bswapL 0x5 ∧ decodeWord 0x4574 = .bswapQ 0x5 ∧
    decodeWord 0x4584 = .swapL 0x5 ∧ decodeWord 0x4505 = .rotr 0x5 := by
  decide

/-- One word of each row of group 4 (43, 44), from its encoding in the opcode table. -/
theorem test_decode_4b :
    decodeWord 0x4515 = .cmppl 0x5 ∧ decodeWord 0x4525 = .rotcr 0x5 ∧ decodeWord 0x4A06 = .ldsMachPop 0xA ∧
    decodeWord 0x4A16 = .ldsMaclPop 0xA ∧ decodeWord 0x4A26 = .ldsPrPop 0xA ∧ decodeWord 0x4A56 = .ldsFpulPop 0xA ∧
    decodeWord 0x4A66 = .ldsFpscrPop 0xA ∧ decodeWord 0x4A07 = .ldcSrPop 0xA ∧ decodeWord 0x4A17 = .ldcGbrPop 0xA ∧
    decodeWord 0x4A27 = .ldcVbrPop 0xA ∧ decodeWord 0x4A37 = .ldcSsrPop 0xA ∧ decodeWord 0x4A47 = .ldcSpcPop 0xA ∧
    decodeWord 0x4A57 = .ldcDbrPop 0xA ∧ decodeWord 0x4AB7 = .ldcBankPop 0xA 0x3 ∧ decodeWord 0x4508 = .shll2 0x5 ∧
    decodeWord 0x4518 = .shll8 0x5 ∧ decodeWord 0x4528 = .shll16 0x5 ∧ decodeWord 0x4509 = .shlr2 0x5 ∧
    decodeWord 0x4519 = .shlr8 0x5 ∧ decodeWord 0x4529 = .shlr16 0x5 ∧ decodeWord 0x4A0A = .ldsMach 0xA ∧
    decodeWord 0x4A1A = .ldsMacl 0xA ∧ decodeWord 0x4A2A = .ldsPr 0xA ∧ decodeWord 0x4A5A = .ldsFpul 0xA ∧
    decodeWord 0x4A6A = .ldsFpscr 0xA ∧ decodeWord 0x4A0B = .jsr 0xA := by
  decide

/-- One word of each row of group 4 (43, 44), from its encoding in the opcode table. -/
theorem test_decode_4c :
    decodeWord 0x4A1B = .tasB 0xA ∧ decodeWord 0x4A2B = .jmp 0xA ∧ decodeWord 0x45AC = .shad 0xA 0x5 ∧
    decodeWord 0x45AD = .shld 0xA 0x5 ∧ decodeWord 0x4A0E = .ldcSr 0xA ∧ decodeWord 0x4A1E = .ldcGbr 0xA ∧
    decodeWord 0x4A2E = .ldcVbr 0xA ∧ decodeWord 0x4A3E = .ldcSsr 0xA ∧ decodeWord 0x4A4E = .ldcSpc 0xA ∧
    decodeWord 0x4A5E = .ldcDbr 0xA ∧ decodeWord 0x4ABE = .ldcBank 0xA 0x3 ∧ decodeWord 0x45AF = .macWq 0xA 0x5 := by
  decide

/-- One word of each row of group 6 (45), from its encoding in the opcode table. -/
theorem test_decode_6 :
    decodeWord 0x65A0 = .movBLoad 0xA 0x5 ∧ decodeWord 0x65A1 = .movWqLoad 0xA 0x5 ∧ decodeWord 0x65A2 = .movLLoad 0xA 0x5 ∧
    decodeWord 0x65A3 = .mov 0xA 0x5 ∧ decodeWord 0x65A4 = .movBPop 0xA 0x5 ∧ decodeWord 0x65A5 = .movWqPop 0xA 0x5 ∧
    decodeWord 0x65A6 = .movLPop 0xA 0x5 ∧ decodeWord 0x65A7 = .not 0xA 0x5 ∧ decodeWord 0x65A8 = .swapB 0xA 0x5 ∧
    decodeWord 0x65A9 = .swapW 0xA 0x5 ∧ decodeWord 0x65AA = .negc 0xA 0x5 ∧ decodeWord 0x65AB = .neg 0xA 0x5 ∧
    decodeWord 0x65AC = .extuB 0xA 0x5 ∧ decodeWord 0x65AD = .extsB 0xA 0x5 ∧ decodeWord 0x65AE = .extuW 0xA 0x5 ∧
    decodeWord 0x65AF = .extsW 0xA 0x5 := by
  decide

/-- One word of each row of groups 1, 5 and 7 (41, 45), from its encoding in the opcode table. -/
theorem test_decode_1_5_7 :
    decodeWord 0x15AC = .movLStoreDisp 0xA 0x5 0xC ∧ decodeWord 0x55AC = .movLLoadDisp 0xA 0xC 0x5 ∧
    decodeWord 0x75B7 = .addImm 0xB7 0x5 := by
  decide

/-- One word of each row of groups 8 and 9 (46), from its encoding in the opcode table. -/
theorem test_decode_8_9 :
    decodeWord 0x805C = .movBStoreR0Disp 0x5 0xC ∧ decodeWord 0x815C = .movWqStoreR0Disp 0x5 0xC ∧
    decodeWord 0x8150 = .movWStoreR0 0x5 ∧ decodeWord 0x84AC = .movBLoadR0Disp 0xA 0xC ∧
    decodeWord 0x85AC = .movWqLoadR0Disp 0xA 0xC ∧ decodeWord 0x85A0 = .movWLoadR0 0xA ∧ decodeWord 0x88B7 = .cmpeqImm 0xB7 ∧
    decodeWord 0x89B7 = .bt 0xB7 ∧ decodeWord 0x8BB7 = .bf 0xB7 ∧ decodeWord 0x8CB7 = .ldsh8 0xB7 ∧
    decodeWord 0x8DB7 = .bts 0xB7 ∧ decodeWord 0x8FB7 = .bfs 0xB7 ∧ decodeWord 0x95AC = .movWqLoadDisp 0xA 0xC 0x5 ∧
    decodeWord 0x95A0 = .movWLoad 0xA 0x5 := by
  decide

/-- One word of each row of groups A to E (46, 47), from its encoding in the opcode table. -/
theorem test_decode_A_to_E :
    decodeWord 0xA9D3 = .bra 0x9D3 ∧ decodeWord 0xB9D3 = .bsr 0x9D3 ∧ decodeWord 0xC0B7 = .movBStoreGbr 0xB7 ∧
    decodeWord 0xC1B7 = .movWqStoreGbr 0xB7 ∧ decodeWord 0xC2B7 = .movLStoreGbr 0xB7 ∧ decodeWord 0xC3B7 = .trapa 0xB7 ∧
    decodeWord 0xC4B7 = .movBLoadGbr 0xB7 ∧ decodeWord 0xC5B7 = .movWqLoadGbr 0xB7 ∧ decodeWord 0xC6B7 = .movLLoadGbr 0xB7 ∧
    decodeWord 0xC7B7 = .mova 0xB7 ∧ decodeWord 0xC8B7 = .tstImm 0xB7 ∧ decodeWord 0xC9B7 = .andImm 0xB7 ∧
    decodeWord 0xCAB7 = .xorImm 0xB7 ∧ decodeWord 0xCBB7 = .orImm 0xB7 ∧ decodeWord 0xCCB7 = .tstB 0xB7 ∧
    decodeWord 0xCDB7 = .andB 0xB7 ∧ decodeWord 0xCEB7 = .xorB 0xB7 ∧ decodeWord 0xCFB7 = .orB 0xB7 ∧
    decodeWord 0xD5B7 = .movLqLoadPc 0xB7 0x5 ∧ decodeWord 0xE5B7 = .movImm 0xB7 0x5 := by
  decide

/-- One word of each row of group F (48), from its encoding in the opcode table. -/
theorem test_decode_F :
    decodeWord 0xF5A0 = .fadd 0xA 0x5 ∧ decodeWord 0xF5A1 = .fsub 0xA 0x5 ∧ decodeWord 0xF5A2 = .fmul 0xA 0x5 ∧
    decodeWord 0xF5A3 = .fdiv 0xA 0x5 ∧ decodeWord 0xF5A4 = .fcmpeq 0xA 0x5 ∧ decodeWord 0xF5A5 = .fcmpgt 0xA 0x5 ∧
    decodeWord 0xF5A6 = .fmovLoadIdx 0xA 0x5 ∧ decodeWord 0xF5A7 = .fmovStoreIdx 0xA 0x5 ∧
    decodeWord 0xF5A8 = .fmovLoad 0xA 0x5 ∧ decodeWord 0xF5A9 = .fmovPop 0xA 0x5 ∧ decodeWord 0xF5AA = .fmovStore 0xA 0x5 ∧
    decodeWord 0xF5AB = .fmovPush 0xA 0x5 ∧ decodeWord 0xF5AC = .fmov 0xA 0x5 ∧ decodeWord 0xF50D = .fsts 0x5 ∧
    decodeWord 0xFA1D = .flds 0xA ∧ decodeWord 0xF52D = .float 0x5 ∧ decodeWord 0xFA3D = .ftrc 0xA ∧
    decodeWord 0xF54D = .fneg 0x5 ∧ decodeWord 0xF55D = .fabs 0x5 ∧ decodeWord 0xF56D = .fsqrt 0x5 ∧
    decodeWord 0xF58D = .fldi0 0x5 ∧ decodeWord 0xF59D = .fldi1 0x5 ∧ decodeWord 0xF5AD = .fcnvsd 0x5 ∧
    decodeWord 0xFABD = .fcnvds 0xA ∧ decodeWord 0xF3FD = .fschg ∧ decodeWord 0xF5AE = .fmac 0xA 0x5 := by
  decide

/-- One word of each row of the rows that are not implemented (30 R149), from its encoding in the opcode table. -/
theorem test_decode_not_implemented :
    decodeWord 0x0693 = .ocbi 0x6 ∧ decodeWord 0x06A3 = .ocbp 0x6 ∧ decodeWord 0x06B3 = .ocbwb 0x6 ∧
    decodeWord 0x0038 = .ldtlb ∧ decodeWord 0x0068 = .nott ∧ decodeWord 0x0639 = .movrt 0x6 ∧ decodeWord 0x064A = .stcTbr 0x6 ∧
    decodeWord 0x005B = .resbank ∧ decodeWord 0x006B = .rtsN ∧ decodeWord 0x067B = .rtvN 0x6 ∧ decodeWord 0x4680 = .mulr 0x6 ∧
    decodeWord 0x46F0 = .movmuPush 0x6 ∧ decodeWord 0x4681 = .clipuB 0x6 ∧ decodeWord 0x4691 = .clipsB 0x6 ∧
    decodeWord 0x46E1 = .stbank 0x6 ∧ decodeWord 0x46F1 = .movmlPush 0x6 ∧ decodeWord 0x4694 = .divu 0x6 ∧
    decodeWord 0x46F4 = .movmuPop 0x6 ∧ decodeWord 0x4685 = .clipuW 0x6 ∧ decodeWord 0x4695 = .clipsW 0x6 ∧
    decodeWord 0x46E5 = .ldbank 0x6 ∧ decodeWord 0x46F5 = .movmlPop 0x6 ∧ decodeWord 0x464A = .ldcTbr 0x6 ∧
    decodeWord 0x464B = .jsrN 0x6 ∧ decodeWord 0x468B = .movBR0Post 0x6 ∧ decodeWord 0x469B = .movWR0Post 0x6 ∧
    decodeWord 0x46AB = .movLR0Post 0x6 ∧ decodeWord 0x46CB = .movBR0Pre 0x6 ∧ decodeWord 0x46DB = .movWR0Pre 0x6 ∧
    decodeWord 0x46EB = .movLR0Pre 0x6 ∧ decodeWord 0x83B7 = .jsrN8 0xB7 ∧ decodeWord 0x86B7 = .bset 0xB7 ∧
    decodeWord 0x87B7 = .bst 0xB7 ∧ decodeWord 0xF67D = .ftrv 0x6 ∧ decodeWord 0xF6ED = .fipr 0x6 ∧
    decodeWord 0xFBFD = .frchg := by
  decide

/-- The words that name no instruction (30 R150 to R152). -/
theorem test_decode_empty :
    decodeWord 0x0062 = .unused 0x0062 ∧ decodeWord 0x82C5 = .unused 0x82C5 ∧ decodeWord 0xF1FD = .unused 0xF1FD ∧
    decodeWord 0x0000 = .reserved 0x0000 ∧ decodeWord 0x3AB9 = .reserved 0x3AB9 ∧ decodeWord 0x0109 = .unlisted 0x0109 ∧
    decodeWord 0x4030 = .unlisted 0x4030 := by
  decide

/-- The fat layouts: the prefix, the operation word and the extension words, and a prefix that opens none (49 R472 to R477). -/
theorem test_decode_fat :
    decode false [0x008B, 0xE512, 0x3456] = .ok (.ldfatMov24 0x123456 5, []) ∧
    decode false [0x009B, 0xE512, 0x3456, 0x789A] = .ok (.ldfatMov40 0x123456789A 5, []) ∧
    decode true [0x009B, 0xE512, 0x3456, 0x789A, 0xBCDE] = .ok (.ldfatMov56 0x123456789ABCDE 5, []) ∧
    decode true [0x008B, 0xA123, 0x4567] = .ok (.ldfatBra 0x1234567, []) ∧
    decode false [0x008B, 0xBFFF, 0xFFFD] = .ok (.ldfatBsr 0xFFFFFFD, []) ∧
    decode false [0x009B, 0xA123] = .ok (.ldfatQ, [0xA123]) ∧ decode false [0x005B, 0xB123] = .ok (.resbank, [0xB123]) := by
  decide

/-- The bytes of a word in both orders (30 R140). -/
theorem test_decode_bytes : decodeTableWord 16 0x321C = some (.add 1 2) ∧
    decodeTableWord 48 0x3456E512008B = some (.ldfatMov24 0x123456 5) ∧
    decodeBytes true false [0x1C, 0x32] = .ok (.add 1 2) ∧ decodeBytes false false [0x32, 0x1C] = .ok (.add 1 2) := by
  decide

/-! One step. -/

/-- The machine at 0x1000 in supervisor mode, 32 bits wide, big-endian, with `VBR` written. -/
def calm : State := { State.reset with pc := 0x1000, vbrWritten := true }

/-- The machine with a status register, general registers and bytes of memory. -/
def world (sr : Nat) (regs : List (Reg × Nat)) (bytes : List (Nat × List Byte)) : State :=
  let s := regs.foldl (fun s p => s.putReg p.1 (Reg64.ofBits (BitVec.ofNat 64 p.2))) { calm with sr := BitVec.ofNat 64 sr }
  { s with mem := bytes.foldl (fun m p => Memory.writeBytes m p.1 p.2) [] }

/-- The state after one step on an instruction word. -/
def run (w : Nat) (s : State) : Option State :=
  match step (s.withFetchWord 16 w) with
  | .next t => some t
  | _ => none

/-- What a step leaves in a general register. -/
def gives (w : Nat) (s : State) (n : Reg) : Option Nat := (run w s).map (·.xNat n)

/-- What a step leaves in a general register, and the `T` bit. -/
def givesT (w : Nat) (s : State) (n : Reg) : Option (Nat × Bool) := (run w s).map fun t => (t.xNat n, t.t)

/-- The bytes that a step leaves in memory. -/
def leaves (w : Nat) (s : State) (a count : Nat) : Option (List Byte) := (run w s).map fun t => Memory.readBytes t.mem a count

/-- The reason for which a step stops with no meaning. -/
def stops (w : Nat) (s : State) : Option Refusal :=
  match step (s.withFetchWord 16 w) with
  | .refused r => some r
  | _ => none

/-- The fault of a step. -/
def faults (w : Nat) (s : State) : Option Fault :=
  match step (s.withFetchWord 16 w) with
  | .fault f => some f
  | _ => none

/-- Single-precision values in `FR1` and `FR2`. -/
def floats (a b : BitVec 32) : State := { calm with fr := (calm.fr.set 1 ⟨0, a⟩).set 2 ⟨0, b⟩ }

/-- The status register of supervisor mode with more bits set. -/
abbrev sup (bits : Nat) : Nat := 0x40000000 + bits

/-- The examples of 42 R277 to R283. -/
theorem test_add_subtract :
    gives 0x321C (world (sup 0) [(1, 1), (2, 0xFFFFFFFF)] []) 2 = some 0 ∧
    givesT 0x321E (world (sup 1) [(1, 0), (2, 0xFFFFFFFF)] []) 2 = some (0, true) ∧
    givesT 0x321F (world (sup 0) [(1, 1), (2, 0x7FFFFFFF)] []) 2 = some (0x80000000, true) ∧
    gives 0x3218 (world (sup 0) [(1, 1), (2, 0)] []) 2 = some 0xFFFFFFFF ∧
    givesT 0x321A (world (sup 1) [(1, 0), (2, 0)] []) 2 = some (0xFFFFFFFF, true) ∧
    givesT 0x321B (world (sup 0) [(1, 1), (2, 0x80000000)] []) 2 = some (0x7FFFFFFF, true) ∧
    gives 0x7FFC (world (sup 0) [(15, 0x4000)] []) 15 = some 0x3FFC ∧
    givesT 0x621A (world (sup 0) [(1, 1)] []) 2 = some (0xFFFFFFFF, true) ∧
    givesT 0x4210 (world (sup 0) [(2, 1)] []) 2 = some (0, true) := by
  decide

/-- The examples of 42 R270 to R276, 41 R259, R263, 43 R294, R316, 46 R392, 47 R415. -/
theorem test_comparisons :
    (run 0x3210 (world (sup 0) [(1, 5), (2, 5)] [])).map State.t = some true ∧
    (run 0x3212 (world (sup 0) [(1, 1), (2, 0xFFFFFFFF)] [])).map State.t = some true ∧
    (run 0x3213 (world (sup 0) [(1, 1), (2, 0xFFFFFFFF)] [])).map State.t = some false ∧
    (run 0x3216 (world (sup 0) [(1, 7), (2, 7)] [])).map State.t = some false ∧
    (run 0x3217 (world (sup 0) [(1, 0xFFFFFFFF), (2, 0)] [])).map State.t = some true ∧
    (run 0x2218 (world (sup 0) [(1, 0xF0), (2, 0x0F)] [])).map State.t = some true ∧
    (run 0x221C (world (sup 0) [(1, 0x11223344), (2, 0xAA22BBCC)] [])).map State.t = some true ∧
    (run 0x4111 (world (sup 0) [(1, 0x80000000)] [])).map State.t = some false ∧
    (run 0x4115 (world (sup 0) [(1, 0)] [])).map State.t = some false ∧
    (run 0x88FF (world (sup 0) [(0, 0xFFFFFFFF)] [])).map State.t = some true ∧
    (run 0xC8FF (world (sup 0) [(0, 0x100)] [])).map State.t = some true := by
  decide

/-- The examples of 41 R260 to R264, 45 R373 to R381, 43 R310 to R314, 46 R395. -/
theorem test_logic_moves :
    gives 0x2219 (world (sup 0) [(1, 0xFF00), (2, 0x0FF0)] []) 2 = some 0x0F00 ∧
    gives 0x221A (world (sup 0) [(1, 0xFF00), (2, 0x0FF0)] []) 2 = some 0xF0F0 ∧
    gives 0x221B (world (sup 0) [(1, 0xFF00), (2, 0x0FF0)] []) 2 = some 0xFFF0 ∧
    gives 0x6217 (world (sup 0) [(1, 0x0F0F0F0F)] []) 2 = some 0xF0F0F0F0 ∧
    gives 0x221D (world (sup 0) [(1, 0x12345678), (2, 0x9ABCDEF0)] []) 2 = some 0x56789ABC ∧
    gives 0x6218 (world (sup 0) [(1, 0x11223344)] []) 2 = some 0x11224433 ∧
    gives 0x6219 (world (sup 0) [(1, 0x11223344)] []) 2 = some 0x33441122 ∧
    gives 0x621D (world (sup 0) [(1, 0x123456F8)] []) 2 = some 0xFFFFFFF8 ∧
    gives 0x621E (world (sup 0) [(1, 0x1234F678)] []) 2 = some 0xF678 ∧
    gives 0x4154 (world (sup 0x100000) [(1, 0x1234567889ABCDEF)] []) 1 = some 0xFFFFFFFF89ABCDEF ∧
    gives 0x4164 (world (sup 0) [(1, 0x11223344)] []) 1 = some 0x44332211 ∧
    gives 0x4174 (world (sup 0x100000) [(1, 0x1122334455667788)] []) 1 = some 0x8877665544332211 ∧
    gives 0x4184 (world (sup 0x100000) [(1, 0x1122334455667788)] []) 1 = some 0x5566778811223344 ∧
    gives 0x8CFF (world (sup 0) [(0, 0x1234)] []) 0 = some 0x1234FF ∧
    gives 0xE1FF (world (sup 0) [] []) 1 = some 0xFFFFFFFF := by
  decide

/-- The examples of 43 R290 to R295, R308, R309, R315, R317, R335 to R340, 44 R349, R350. -/
theorem test_shifts :
    givesT 0x4100 (world (sup 0) [(1, 0x80000001)] []) 1 = some (2, true) ∧
    givesT 0x4120 (world (sup 0) [(1, 0x40000000)] []) 1 = some (0x80000000, false) ∧
    givesT 0x4101 (world (sup 0) [(1, 0x80000001)] []) 1 = some (0x40000000, true) ∧
    givesT 0x4121 (world (sup 0) [(1, 0x80000001)] []) 1 = some (0xC0000000, true) ∧
    givesT 0x4104 (world (sup 0) [(1, 0x80000000)] []) 1 = some (1, true) ∧
    givesT 0x4124 (world (sup 1) [(1, 0x80000000)] []) 1 = some (1, true) ∧
    givesT 0x4105 (world (sup 0) [(1, 1)] []) 1 = some (0x80000000, true) ∧
    givesT 0x4125 (world (sup 1) [(1, 2)] []) 1 = some (0x80000001, false) ∧
    gives 0x4118 (world (sup 0) [(1, 0x12345678)] []) 1 = some 0x34567800 ∧
    gives 0x4109 (world (sup 0) [(1, 0x80000007)] []) 1 = some 0x20000001 ∧
    gives 0x421C (world (sup 0) [(1, 0xFFFFFFFC), (2, 0x80000010)] []) 2 = some 0xF8000001 ∧
    gives 0x421D (world (sup 0) [(1, 0xFFFFFFFC), (2, 0x80000010)] []) 2 = some 0x08000001 := by
  decide

/-- The examples of 40 R215, R226, R242, 41 R258, R265, R266, 42 R273, R274, R281, 44 R358. -/
theorem test_multiply_divide :
    (run 0x0217 (world (sup 0) [(1, 0x10000), (2, 0x10001)] [])).map (·.macl) = some 0x10000 ∧
    (run 0x3215 (world (sup 0) [(1, 0xFFFFFFFF), (2, 0xFFFFFFFF)] [])).map (fun t => (t.mach, t.macl)) = some (0xFFFFFFFE, 1) ∧
    (run 0x321D (world (sup 0) [(1, 0xFFFFFFFF), (2, 2)] [])).map (fun t => (t.mach, t.macl)) =
      some (0xFFFFFFFF, 0xFFFFFFFE) ∧
    (run 0x221E (world (sup 0) [(1, 0xFFFF), (2, 0xFFFF)] [])).map (·.macl) = some 0xFFFE0001 ∧
    (run 0x221F (world (sup 0) [(1, 0xFFFF), (2, 2)] [])).map (·.macl) = some 0xFFFFFFFE ∧
    (run 0x2217 (world (sup 0) [(1, 0x80000000), (2, 1)] [])).map (fun t => (t.q, t.m, t.t)) = some (false, true, true) ∧
    (run 0x3214 (world (sup 0) [(1, 2), (2, 7)] [])).map (fun t => (t.xNat 2, t.q, t.t)) = some (0xC, false, true) ∧
    (run 0x0019 (world (sup 0x301) [] [])).map (·.sr) = some 0x40000000 := by
  decide

/-- The examples of 40 R242 and 44 R358: the accumulator and both pointers. -/
theorem test_multiply_accumulate :
    (run 0x021F (world (sup 0) [(1, 0x3000), (2, 0x3100)] [(0x3000, [0, 0, 0, 3]), (0x3100, [0xFF, 0xFF, 0xFF, 0xFE])])).map
      (fun t => (t.mach, t.macl, t.xNat 1, t.xNat 2)) = some (0xFFFFFFFF, 0xFFFFFFFA, 0x3004, 0x3104) ∧
    (run 0x421F (world (sup 0) [(1, 0x3000), (2, 0x3100)] [(0x3000, [0, 3]), (0x3100, [0xFF, 0xFE])])).map
      (fun t => (t.mach, t.macl, t.xNat 1, t.xNat 2)) = some (0xFFFFFFFF, 0xFFFFFFFA, 0x3002, 0x3102) := by
  decide

/-- The examples of 40 R239 to R241, 45 R365 to R372, 46 R389 to R391, R398, R399, 47 R411 to R413. -/
theorem test_loads :
    gives 0x012C (world (sup 0) [(0, 4), (2, 0x3000)] [(0x3004, [0x80])]) 1 = some 0xFFFFFF80 ∧
    gives 0x012D (world (sup 0) [(0, 2), (2, 0x3000)] [(0x3002, [0xFF, 0xFE])]) 1 = some 0xFFFFFFFE ∧
    gives 0x012E (world (sup 0x100000) [(0, 8), (2, 0x3000)] [(0x3008, [0xDE, 0xAD, 0xBE, 0xEF])]) 1 =
      some 0xFFFFFFFFDEADBEEF ∧
    gives 0x5212 (world (sup 0) [(1, 0x3000)] [(0x3008, [0x80, 0, 0, 1])]) 2 = some 0x80000001 ∧
    gives 0x6211 (world (sup 0x400000) [(1, 0x3000)] [(0x3000, [0x34, 0x12])]) 2 = some 0x1234 ∧
    (run 0x61F5 (world (sup 0x100000) [(15, 0x3FF8)] [(0x3FF8, [1, 2, 3, 4, 5, 6, 7, 8])])).map
      (fun t => (t.xNat 1, t.xNat 15)) = some (0x0102030405060708, 0x4000) ∧
    gives 0x6114 (world (sup 0) [(1, 0x3000)] [(0x3000, [0x7F])]) 1 = some 0x7F ∧
    gives 0x8510 (world (sup 0x100000) [(1, 0x3000)] [(0x3000, [0xFF, 0xFE])]) 0 = some 0xFFFFFFFFFFFFFFFE ∧
    gives 0x91F2 (world (sup 0x100000) [(15, 0x4000)] [(0x4010, [1, 2, 3, 4, 5, 6, 7, 8])]) 1 = some 0x0102030405060708 ∧
    gives 0x9210 (world (sup 0x100000) [(1, 0x3000)] [(0x3000, [0x12, 0x34])]) 2 = some 0x1234 := by
  decide

/-- The examples of 40 R211 to R214, 41 R250 to R257, 46 R386 to R388. -/
theorem test_stores :
    leaves 0x0215 (world (sup 0x400000) [(0, 2), (2, 0x3000), (1, 0xABCD)] []) 0x3001 4 = some [0, 0xCD, 0xAB, 0] ∧
    leaves 0x0216 (world (sup 0) [(0, 8), (2, 0x3000), (1, 0xDEADBEEF)] []) 0x3008 4 = some [0xDE, 0xAD, 0xBE, 0xEF] ∧
    leaves 0x1F12 (world (sup 0) [(15, 0x4000), (1, 0x12345678)] []) 0x4008 4 = some [0x12, 0x34, 0x56, 0x78] ∧
    leaves 0x2211 (world (sup 0x500000) [(2, 0x3000), (1, 0x0102030405060708)] []) 0x3000 8 = some [8, 7, 6, 5, 4, 3, 2, 1] ∧
    leaves 0x01C3 (world (sup 0) [(0, 0x11223344), (1, 0x3000)] []) 0x3000 4 = some [0x11, 0x22, 0x33, 0x44] ∧
    leaves 0x8110 (world (sup 0x100000) [(0, 0x1122334455667788), (1, 0x3000)] []) 0x3000 2 = some [0x77, 0x88] ∧
    (run 0x2F14 (world (sup 0) [(15, 0x4000), (1, 0xAB)] [])).map (fun t => (Memory.read t.mem 0x3FFF, t.xNat 15)) =
      some (0xAB, 0x3FFF) ∧
    (run 0x2F16 (world (sup 0) [(15, 0x4000), (1, 0x12345678)] [])).map
      (fun t => (Memory.readBytes t.mem 0x3FFC 4, t.xNat 15)) = some ([0x12, 0x34, 0x56, 0x78], 0x3FFC) := by
  decide

/-- The examples of 41 R254, 44 R347, 47 R419 to R422. -/
theorem test_read_and_write :
    (run 0x2213 (world (sup 0) [(0, 0x3000), (1, 5), (2, 9)] [(0x3000, [0, 0, 0, 5])])).map
      (fun t => (Memory.readBytes t.mem 0x3000 4, t.xNat 2, t.t)) = some ([0, 0, 0, 9], 5, true) ∧
    (run 0x411B (world (sup 0) [(1, 0x3000)] [])).map (fun t => (Memory.read t.mem 0x3000, t.t)) = some (0x80, true) ∧
    (run 0x411B (world (sup 0) [(1, 0x3000)] [(0x3000, [1])])).map (fun t => (Memory.read t.mem 0x3000, t.t)) =
      some (0x81, false) ∧
    leaves 0xCE0F { world (sup 0) [(0, 4)] [(0x2004, [0xFF])] with gbr := 0x2000 } 0x2004 1 = some [0xF0] ∧
    (run 0xCC0F { world (sup 0) [(0, 4)] [(0x2004, [0xF0])] with gbr := 0x2000 }).map State.t = some true := by
  decide

/-- The examples of 40 R201, R207, 43 R301, R307, R318, R323, 44 R351, R357. -/
theorem test_special_registers :
    gives 0x0302 (world (sup 0xF1) [] []) 3 = some 0x400000F1 ∧
    gives 0x03A2 { calm with bankA := calm.bankA.set 2 ⟨0, 0x55⟩ } 3 = some 0x55 ∧
    leaves 0x4F03 (world (sup 0xF0) [(15, 0x4000)] []) 0x3FFC 4 = some [0x40, 0, 0, 0xF0] ∧
    (run 0x4F06 (world (sup 0) [(15, 0x3FFC)] [(0x3FFF, [7])])).map (fun t => (t.mach, t.xNat 15)) = some (7, 0x4000) ∧
    (run 0x4F07 (world (sup 0) [(15, 0x3FFC)] [(0x3FFC, [0x40, 0, 0, 0xF0])])).map (fun t => (t.sr, t.xNat 15)) =
      some (0x400000F0, 0x4000) ∧
    (run 0x410E (world (sup 0) [(1, 0x40300000)] [])).map (fun t => (t.md, t.dq, t.aq, t.W)) = some (true, true, true, 64) ∧
    (run 0x43AE (world (sup 0) [(3, 0x55)] [])).map (fun t => (t.bankA.get 2).lo) = some 0x55 ∧
    (run 0x0098 (world 0 [] [])).map (·.sr) = some 0x00100000 := by
  decide

/-- The examples of 40 R208, R209, 44 R346, 46 R393, R394, R397, 47 R405, R406: the program counter and the pending target. -/
theorem test_branches :
    (run 0x0103 (world (sup 0) [(1, 0x100)] [])).map (fun t => (t.pr, t.pc, t.slot.map (·.target))) =
      some (0x1004, 0x1002, some 0x1104) ∧
    (run 0x0223 { world (sup 0) [(2, 0xFFFFFFF0)] [] with pc := 0x2000 }).map (fun t => (t.pc, t.slot.map (·.target))) =
      some (0x2002, some 0x1FF4) ∧
    (run 0x430B (world (sup 0) [(3, 0x2000)] [])).map (fun t => (t.pr, t.slot.map (·.target))) = some (0x1004, some 0x2000) ∧
    (run 0x8902 (world (sup 1) [] [])).map (fun t => (t.pc, t.slot)) = some (0x1008, none) ∧
    (run 0x8902 (world (sup 0) [] [])).map (·.pc) = some 0x1002 ∧
    (run 0x8BFC { calm with pc := 0x1008 }).map (·.pc) = some 0x1004 ∧
    (run 0x8FFE calm).map (fun t => (t.pc, t.slot.map (·.target))) = some (0x1002, some 0x1000) ∧
    (run 0xA004 calm).map (fun t => t.slot.map (·.target)) = some (some 0x100C) ∧
    (run 0xB07E calm).map (fun t => (t.pr, t.slot.map (·.target))) = some (0x1004, some 0x1100) ∧
    (run 0x0009 { calm with pc := 0x1002, slot := some ⟨0x2000, 0x1000⟩ }).map (fun t => (t.pc, t.slot)) =
      some (0x2000, none) := by
  decide

/-- The examples of 47 R414 and R423, and of the fat loads (49 R472, R475). -/
theorem test_pc_relative :
    gives 0xC702 { calm with pc := 0x1002 } 0 = some 0x100C ∧
    gives 0xD102 (world (sup 0) [] [(0x100C, [0x12, 0x34, 0x56, 0x78])]) 1 = some 0x12345678 ∧
    gives 0xD102 (world (sup 0x800000) [] [(0x100C, [0x12, 0x34, 0x56, 0x78])]) 1 = some 0x78563412 ∧
    (match step (calm.withFetchWord 48 0x3456E112008B) with
      | .next t => some (t.xNat 1, t.pc)
      | _ => none) = some (0x123456, 0x1006) := by
  decide

/-- The examples of 40 R235, R236 and 47 R410, and user mode (60 R531). -/
theorem test_traps :
    (run 0x003B { calm with vbr := 0x8000, mem := Memory.writeBytes [] 0x8030 [0, 0, 0x90, 0] }).map
      (fun t => (t.spc, t.ssr, t.pc)) = some (0x1000, 0x40000000, 0x9000) ∧
    (run 0xC320 { world 1 [] [] with mem := Memory.writeBytes [] 0x80 [0, 0, 0x90, 0] }).map
      (fun t => (t.spc, t.ssr, t.md, t.pc)) = some (0x1002, 1, true, 0x9000) ∧
    (run 0x002B { calm with ssr := 1, spc := 0x1008 }).map (fun t => (t.sr, t.pc, t.slot.map (·.target))) =
      some (1, 0x1002, some 0x1008) ∧
    (run 0x0102 { world 0 [] [] with mem := Memory.writeBytes [] 0x10 [0, 0, 0x90, 0] }).map
      (fun t => (t.spc, t.md, t.pc)) = some (0x1000, true, 0x9000) ∧
    (run 0x001B calm).map (fun t => (t.asleep, t.pc)) = some (true, 0x1002) := by
  decide

/-- 60 R513 and 70 R565: a trap before the first write of `VBR` stops, `LDC R1, VBR` ends that, also with the value it has at reset.
60 R514: a table that tells the kinds of `AddressError` apart. -/
theorem test_vector_base :
    faults 0x003B { calm with vbrWritten := false } = some .vectorBase ∧
    (run 0x412E { calm with vbrWritten := false }).map (·.vbrWritten) = some true ∧
    [Cause.addressError 1 .read, .addressError 3 .read, .addressError 1 .write].map
      ({ calm with params := { calm.params with
          vecOverride := [⟨.addressErrors .write, 0x20, 0x40⟩, ⟨.only (.addressError 1 .read), 0x30, 0x60⟩] } } : State).vecOffset =
        [0x30, 0x24, 0x20] := by
  decide

/-- 20 R117, 70 R578, 60 R531: a machine with an MMU, a run at its end and one in a delay slot there, an instruction made
privileged. -/
theorem test_parameters :
    stops 0x0009 { calm with params := { calm.params with hasMMU := true } } = some .mmu ∧
    (run 0x0009 { calm with params := { calm.params with endPC := some 0x1000 } }).map (·.pc) = some 0x1000 ∧
    (run 0x0009 { calm with params := { calm.params with endPC := some 0x1002 } }).map (·.pc) = some 0x1002 ∧
    (run 0x0009 { calm with pc := 0x1002, slot := some ⟨0x2000, 0x1000⟩, params := { calm.params with endPC := some 0x1002 } }).map
      (·.pc) = some 0x2000 ∧
    (run 0x0008 { world 0 [] [(0x10, [0, 0, 0x90, 0])] with params := { calm.params with privileged := [⟨1, 0xFFFF, 0x0008⟩] } }).map
      (fun t => (t.md, t.pc)) = some (true, 0x9000) ∧
    (run 0x001B { world 0 [] [] with params := { calm.params with privileged := [] } }).map (·.asleep) = some true ∧
    ({ calm with params := { calm.params with bankSel := .test 30 (.test 29 .bankB .bankA) .bankA } } : State).bankBActive = false ∧
    ({ calm with params := { calm.params with bankSel := .test 0 .bankB .bankA }, sr := 1 } : State).bankBActive = true := by
  decide

/-- 10 R23, 42 R282, 41 R254: where `SR.T` selects the bank, `ADDC` and `CAS.L` write the register that `n` named before `T`. -/
theorem test_bank_by_t :
    (run 0x321E { world 1 [(2, 5)] [] with params := { calm.params with bankSel := .test 0 .bankA .bankB } }).map
      (fun t => (t.t, t.bankBActive, (t.bankA.get 2).lo)) = some (false, true, 6) ∧
    (run 0x2213 { world 0 [(0, 0x3000), (1, 5), (2, 9)] [(0x3000, [0, 0, 0, 5])] with
      params := { calm.params with bankSel := .test 0 .bankB .bankA } }).map
      (fun t => (t.t, t.bankBActive, (t.bankA.get 2).lo, (t.bankB.get 2).lo)) = some (true, true, 5, 0) := by
  decide

/-- 60 R531: a set may hold `LDFATMOV` of four words and not the one of five, though a last word of 0 is all they differ in. -/
theorem test_set_by_length :
    isIn [⟨4, 0, 0⟩] (.ldfatMov40 7 3) = true ∧ isIn [⟨4, 0, 0⟩] (.ldfatMov56 7 3) = false ∧
    isIn [⟨5, 0xFFFF, 0x009B⟩] (.ldfatMov56 7 3) = true ∧ isIn [⟨5, 0xFFFF, 0x009B⟩] (.ldfatMov40 7 3) = false := by
  decide

/-- Start-up on a little-endian image: the magic sets `SR.ME` (70 R560 to R562). -/
def littleImage : List Host.Cell :=
  Memory.writeBytes [] Config.startBlock [0x00, 0x02, 0x00, 0xA0, 0, 0, 2, 0, 0, 0, 0, 0x40, 0x41, 0x30, 0x4A, 0x42]

/-- What start-up answers, in short. -/
def started (m : List Host.Cell) (p : Params) : Except Refusal (BitVec 64 × Bool × Nat) :=
  match startUp m p [] with
  | .next t => .ok (t.pc, t.me, t.xNat 15)
  | .refused r => .error r
  | .fault _ => .error .truncatedFetch

/-- The examples of 70 R560 to R563: both byte orders, a wrong magic, nothing at the block, an odd program counter. -/
theorem test_startUp :
    (match started littleImage Config.resetParams with
      | .ok v => some v
      | .error _ => none) = some (0xFFFFFFFFA0000200, true, 0x20000) ∧
    (match started (Memory.write [] (Config.startBlock + 15) 0) Config.resetParams with
      | .error r => some r
      | .ok _ => none) = some .startMagic ∧
    (match started [] { Config.resetParams with platform := [] } with
      | .error r => some r
      | .ok _ => none) = some .startAbsent ∧
    (match started (Memory.write [] (Config.startBlock + 3) 1) Config.resetParams with
      | .error r => some r
      | .ok _ => none) = some .startOddPc := by
  decide

/-- The examples of 48 R432 to R437, R447, R448, R451, R457, under the intended instance: 1 + 2, 1 - 3, 2 * 3, 6 / 2, the order of -0 and
0, 3, -2.5, the root of 9, 2 * 3 + 1. -/
theorem test_fpu_arithmetic :
    (run 0xF210 (floats 0x3F800000 0x40000000)).map (·.f32 2) = some 0x40400000 ∧
    (run 0xF211 (floats 0x40400000 0x3F800000)).map (·.f32 2) = some 0xC0000000 ∧
    (run 0xF212 (floats 0x40000000 0x40400000)).map (·.f32 2) = some 0x40C00000 ∧
    (run 0xF213 (floats 0x40000000 0x40C00000)).map (·.f32 2) = some 0x40400000 ∧
    (run 0xF214 (floats 0 0x80000000)).map State.t = some true ∧
    (run 0xF215 (floats 0x3F800000 0x40000000)).map State.t = some true ∧
    (run 0xF12D { calm with fpul := 3 }).map (·.f32 1) = some 0x40400000 ∧
    (run 0xF13D (floats 0xC0200000 0)).map (·.fpul) = some 0xFFFFFFFE ∧
    (run 0xF16D (floats 0x41100000 0)).map (·.f32 1) = some 0x40400000 ∧
    (run 0xF21E { floats 0x40400000 0x3F800000 with fr := (floats 0x40400000 0x3F800000).fr.set 0 ⟨0, 0x40000000⟩ }).map (·.f32 2) =
      some 0x40E00000 := by
  decide

/-- Rounding at the edges of the formats, by hand: a tie to even, a tie away from an odd one, toward zero, overflow, a third, the least
denormal, a denormal flushed. -/
theorem test_rounding :
    ieeeAdd .single 0 false 0x4B800000 0x3F800000 = some 0x4B800000 ∧
    ieeeAdd .single 0 false 0x4B800001 0x3F800000 = some 0x4B800002 ∧
    ieeeAdd .single 1 false 0x4B800001 0x3F800000 = some 0x4B800001 ∧
    ieeeMul .single 0 false 0x7F7FFFFF 0x40000000 = some 0x7F800000 ∧
    ieeeMul .single 1 false 0x7F7FFFFF 0x40000000 = some 0x7F7FFFFF ∧
    ieeeDiv .single 0 false 0x3F800000 0x40400000 = some 0x3EAAAAAB ∧
    ieeeDiv .double 0 false 0x3FF0000000000000 0x4008000000000000 = some 0x3FD5555555555555 ∧
    ieeeMul .single 0 false 0x00000001 0x3F000001 = some 0x00000001 ∧ ieeeMul .single 0 true 0x00800000 0x3F000000 = some 0 ∧
    ieeeDiv .single 0 false 0 0 = none ∧ ieeeAdd .single 2 false 0 0 = none := by
  decide

/-- The examples of 48 R438 to R443, R449, R453, R456: moves, signs and constants. -/
theorem test_fpu :
    (run 0xF216 (world (sup 0) [(0, 4), (1, 0x3000)] [(0x3004, [0x3F, 0x80])])).map (·.f32 2) = some 0x3F800000 ∧
    leaves 0xF21A (world (sup 0x400000) [(2, 0x3000)] []) 0x3000 2 = some [0, 0] ∧
    (run 0xF2F9 { world (sup 0) [(15, 0x3FF8)] [(0x3FF8, [0x3F, 0xF0])] with fpscr := 0x100000 }).map
      (fun t => (t.f32 2, t.f32 3, t.xNat 15)) = some (0x3FF00000, 0, 0x4000) ∧
    (run 0xF218 { world (sup 0x300000) [(1, 0x3000)] [(0x3000, [0x3F, 0xF0])] with fpscr := 0x100000 }).map (·.f64 2) =
      some 0x3FF0000000000000 ∧
    (run 0xF19D calm).map (·.f32 1) = some 0x3F800000 ∧
    (run 0xF14D { calm with fr := calm.fr.set 1 ⟨0, 0x3F800000⟩ }).map (·.f32 1) = some 0xBF800000 ∧
    (run 0xF3FD calm).map (·.fpscr) = some 0x100000 ∧
    (run 0xF00D { calm with fpul := 0x40000000 }).map (·.f32 0) = some 0x40000000 ∧
    stops 0xF3FD { calm with fpscr := 0x200000 } = some .fpuBank := by
  decide

/-! States that meet the hypotheses of the statements, each clause at a boundary. -/

/-- Whether a step on a state answers a next state. -/
def goesOn (s : State) : Bool :=
  match step s with
  | .next _ => true
  | _ => false

/-- Supervisor mode, 64 bits wide with 32-bit addresses. -/
def wideState : State := { calm with sr := 0x40100000 }

/-- Supervisor mode, 64 bits wide with 48-bit addresses. -/
def longState : State := { calm with sr := 0x40300000 }

/-- User mode. -/
def userState : State := { calm with sr := 0 }

/-- A delay slot at 0x1002 after a branch at 0x1000 to 0x2000. -/
def slotState : State := { calm with pc := 0x1002, slot := some ⟨0x2000, 0x1000⟩ }

/-- A memory with one changed byte, and a tag in the block of 0x1000. -/
def usedState : State := { calm with mem := [(0x2000, 7)], xtag := [⟨0x1000, calm.modeFlags, false⟩] }

/-- For DecodeOfEncode. -/
theorem witness_DecodeOfEncode : (Instr.addImm 0xFF 15).wellFormed = true ∧ (Instr.addImm 0xFF 15).standsAt true = true ∧
    (Instr.ldfatMov40 0xFFFFFFFFFF 15).wellFormed = true ∧ (Instr.ldfatMov40 0xFFFFFFFFFF 15).standsAt false = true ∧
    (Instr.ldfatMov56 0xFFFFFFFFFFFFFF 15).wellFormed = true ∧
    (Instr.ldfatMov56 0xFFFFFFFFFFFFFF 15).standsAt true = true := by
  decide

/-- A run that has ended. -/
def endState : State := { calm with params := { calm.params with endPC := some 0x1000 } }

/-- A machine with an MMU. -/
def mmuState : State := { calm with params := { calm.params with hasMMU := true } }

/-- For StepKeepsParameters, InterruptAcceptance and StopsByName: a final state, a state that is not, an MMU. -/
theorem witness_Boundary : (endState.final = true ∧ goesOn endState = true ∧ endState.modeAllowed = true ∧ endState.slot = none ∧
    endState.params.endPC = some endState.pc ∧ endState.params.hasMMU = false) ∧
    (calm.final = false ∧ ¬ (calm.slot = none ∧ calm.params.endPC = some calm.pc)) ∧ mmuState.params.hasMMU = true := by
  decide

/-- For StepKeepsInvariant and StepKeepsParameters: a used state, and a delay slot. -/
theorem witness_StepKeepsInvariant : (usedState.Inv ∧ goesOn usedState = true) ∧ slotState.Inv ∧ goesOn slotState = true :=
  ⟨⟨⟨by decide, by decide, by decide, by unfold State.holdsPc; decide, by intro sl h; cases h⟩, by decide⟩,
    ⟨by decide, by decide, by decide, by unfold State.holdsPc; decide,
      by intro sl h; injection h with h; subst h; exact Or.inl (by decide)⟩, by decide⟩

/-- For StartUp. -/
theorem witness_StartUp : ∃ s, startUp littleImage Config.resetParams [none] = .next s := ⟨_, rfl⟩

/-- A used state with a word other than a prefix at the program counter. -/
def nopState : State := { usedState with mem := [(0x1001, 9), (0x2000, 7)] }

/-- For StepRunsInstruction: the step in supervisor mode, one that user mode may run and one that it may not, and the fetch of a word
that was executed before under the same flags. -/
theorem witness_StepRunsInstruction :
    (∀ p ∈ [(nopState, Instr.nop, true), ({ nopState with sr := 0, xtag := [] }, .nop, true),
        ({ userState with mem := [(0x1001, 0x1B)] }, .sleep, false)],
      p.1.Starts ∧ p.1.mayRun p.2.1 = p.2.2 ∧ (p.2.2 = false → p.1.md = false ∧ isIn p.1.params.privileged p.2.1 = true) ∧
      (match p.1.passBoundary.fetchWords with
        | .ok (ws, _) => decide (decode p.1.wordParity ws = .ok (p.2.1, []))
        | .error _ => false) = true) ∧
    nopState.Fetches nopState.pc ∧ nopState.valueAt nopState.machineOrder nopState.pc 2 = 0x0009 := by
  refine ⟨?_, ⟨⟨by decide, by decide, by decide⟩, by intro u h; injection h with h; subst h; rfl, by decide⟩, by decide⟩
  intro p hp
  simp only [List.mem_cons, List.not_mem_nil, or_false] at hp
  rcases hp with rfl | rfl | rfl <;>
    exact ⟨⟨by decide, by decide, by decide, by decide, by decide⟩, by decide, by decide, by decide⟩

/-- Bytes at 0x1000 or 0x1002, and the first word of the block executed before in the same mode. -/
def fetching (bytes : List Byte) (pc : BitVec 64) : State :=
  { calm with pc := pc, mem := Memory.writeBytes [] pc.toNat bytes, xtag := [⟨0x1000, calm.modeFlags, false⟩] }

/-- For FatLoadFetch: `LDFAT.L`, and `LDFAT.Q` at both parities, some of their words tagged. -/
theorem witness_FatLoadFetch :
    ∀ p ∈ [(fetching [0x00, 0x8B, 0xE1, 0x12] 0x1000, 0x008B#16, 0xE112#16, 3),
      (fetching [0x00, 0x8B, 0xAF, 0xFF] 0x1000, 0x008B#16, 0xAFFF#16, 3),
      (fetching [0x00, 0x9B, 0xE1, 0x12] 0x1000, 0x009B#16, 0xE112#16, 4),
      (fetching [0x00, 0x9B, 0xE1, 0x12] 0x1002, 0x009B#16, 0xE112#16, 5)],
      p.1.params.hasFatLoad = true ∧ p.1.xtag ≠ [] ∧ p.1.holdsPc ∧ p.1.valueAt p.1.machineOrder p.1.pc 2 = p.2.1 ∧
      p.1.valueAt p.1.machineOrder (p.1.pcPlus 2) 2 = p.2.2.1 ∧
      (∀ k < p.2.2.2, p.1.Fetches (p.1.pcPlus (BitVec.ofNat 64 (2 * k)))) ∧
      ((p.2.1 = 0x008B ∧ (nibble3 p.2.2.1 = 0xE ∨ nibble3 p.2.2.1 = 0xA ∨ nibble3 p.2.2.1 = 0xB) ∧ p.2.2.2 = 3) ∨
        (p.2.1 = 0x009B ∧ nibble3 p.2.2.1 = 0xE ∧ p.2.2.2 = if p.1.wordParity then 5 else 4)) := by
  intro p hp
  simp only [List.mem_cons, List.not_mem_nil, or_false] at hp
  rcases hp with rfl | rfl | rfl | rfl <;>
    refine ⟨rfl, by decide, by unfold State.holdsPc; decide, by decide, by decide, ?_, by decide⟩ <;>
    intro k hk <;> simp only at hk <;> interval_cases k <;>
    exact ⟨⟨by decide, by decide, by decide⟩, by intro u h; revert h; revert u; decide, by decide⟩

/-- A state whose word at the program counter was executed in little-endian mode. -/
def clashState : State := { calm with xtag := [⟨0x1000, { calm.modeFlags with me := true }, false⟩] }

/-- A state in which the block of the program counter was written after another of its words was executed. -/
def dirtyState : State := { calm with xtag := [⟨0x101E, calm.modeFlags, true⟩] }

/-- For FetchUndefined: the two clauses. -/
theorem witness_FetchUndefined :
    (clashState.Starts ∧ clashState.Reads clashState.pc 2 2 ∧
      Tags.find clashState.xtag clashState.pc.toNat = some ⟨0x1000, { calm.modeFlags with me := true }, false⟩ ∧
      ({ calm.modeFlags with me := true } : ModeFlags) ≠ clashState.modeFlags) ∧
    dirtyState.Starts ∧ dirtyState.Reads dirtyState.pc 2 2 ∧ Tags.find dirtyState.xtag dirtyState.pc.toNat = none ∧
    (⟨0x101E, calm.modeFlags, true⟩ : XTag) ∈ dirtyState.xtag ∧
    sameBlock dirtyState.params.icacheShift 0x101E dirtyState.pc.toNat = true :=
  ⟨⟨⟨by decide, by decide, by decide, by decide, by decide⟩, ⟨by decide, by decide, by decide⟩, by decide, by decide⟩,
    ⟨by decide, by decide, by decide, by decide, by decide⟩, ⟨by decide, by decide, by decide⟩, by decide, by decide, by decide⟩

/-- For UserModeIsConfined: a step that stays in user mode, and one that traps. -/
theorem witness_UserModeIsConfined :
    ∀ s ∈ [userState.withFetchWord 16 0x0009, userState.withFetchWord 16 0x003B],
      s.md = false ∧ s.Guarded ∧ s.asleep = false ∧ goesOn s = true := by
  intro s hs
  simp only [List.mem_cons, List.not_mem_nil, or_false] at hs
  rcases hs with rfl | rfl <;> exact ⟨by decide, fun _ h => h, by decide, by decide⟩

/-- The state that trap entry leaves. -/
def entered (c : Cause) : State :=
  match trapEntry c calm with
  | .next t => t
  | _ => calm

/-- For TrapThenReturn: a `TRAPA`, and another cause. -/
theorem witness_TrapThenReturn : ∀ c ∈ [Cause.trap 0xFF, .breakpoint],
    trapEntry c calm = .next (entered c) ∧ calm.slot = none ∧ calm.holdsPc ∧ (entered c).md = true ∧
    (entered c).wide = calm.wide ∧ (entered c).slot = none ∧ (entered c).params = calm.params := by
  intro c hc
  simp only [List.mem_cons, List.not_mem_nil, or_false] at hc
  rcases hc with rfl | rfl <;> exact ⟨rfl, rfl, by unfold State.holdsPc; decide, by decide, by decide, by decide, by decide⟩

/-- A request of a level at the next boundary. -/
def asked (level : BitVec 4) (s : State) : State := { s with irqInput := [some ⟨level, 0⟩, none] }

/-- For InterruptAcceptance: a level just above the mask, one at the mask, a delay slot, a blocked core; no request; asleep. -/
theorem witness_InterruptAcceptance :
    (calm.slot = none ∧ calm.bl = false ∧ (asked 1 calm).im.toNat < (1#4).toNat) ∧
    ¬ ((asked 0 calm).im.toNat < (0#4).toNat) ∧ slotState.slot ≠ none ∧ ({ calm with sr := 0x50000000 } : State).bl = true ∧
    calm.modeAllowed = true ∧ calm.irqInput = [] ∧ ({ calm with irqInput := [none] } : State).irqInput.head? = some none ∧
    ({ calm with asleep := true } : State).asleep = true := by
  decide

/-- For MemoryExtensional and the statements about stores: memories in canonical form, one with the image's first byte changed. -/
theorem witness_Memory : Memory.wf usedState.mem ∧ Memory.wf (Memory.write usedState.mem Config.startBlock 1) ∧
    Memory.write (Memory.write [] 5 1) 2 3 = Memory.write (Memory.write [] 2 3) 5 1 := by
  decide

/-- For Normalisation: both settings of `SR.AQ`, and two addresses with the same low 32 bits. -/
theorem witness_Normalisation : longState.aq = true ∧ calm.aq = false ∧
    (0x180000000#64).toNat % 2 ^ 32 = (0x80000000#64).toNat % 2 ^ 32 ∧ canonical 0xFFFF800000000000 = true ∧
    canonical 0x800000000000 = false := by
  decide

/-- A state whose vector base is odd. -/
def oddBase : State := { calm with vbr := 1 }

/-- A state whose vectors are on a device. -/
def deviceBase : State := { calm with vbr := 0x5000, params := { calm.params with platform := [⟨0x5000, 0x800, .device⟩] } }

/-- For TrapEntry and TrappingInstructions: a vector that can be read, in 4 bytes and in 8, one that is misaligned, one on a device,
and a base that was not written. -/
theorem witness_TrapEntry :
    (∀ s ∈ [calm, longState, slotState, { calm with params := { calm.params with entrySetsBL := true } }], ∀ c ∈ [Cause.trap 0xFF,
      .interrupt 15, .addressError 3 .read], s.vbrWritten = true ∧ s.Reads (s.ea (s.vectorAddress c)) s.vecBytes s.vecBytes) ∧
    oddBase.vbrWritten = true ∧ oddBase.Misses (oddBase.ea (oddBase.vectorAddress .breakpoint)) oddBase.vecBytes oddBase.vecBytes ∧
    deviceBase.OnDevice (deviceBase.ea (deviceBase.vectorAddress .breakpoint)) deviceBase.vecBytes deviceBase.vecBytes ∧
    deviceBase.vbrWritten = true ∧ State.reset.vbrWritten = false ∧
    calm.slot = none ∧ slotState.slot = some ⟨0x2000, 0x1000⟩ ∧ calm.params.hasFatLoad = true := by
  refine ⟨?_, rfl, Or.inl (by decide), ⟨by decide, by decide, by decide, ⟨0, by decide, by decide⟩⟩, rfl, rfl, rfl, rfl, rfl⟩
  intro s hs c hc
  simp only [List.mem_cons, List.not_mem_nil, or_false] at hs hc
  rcases hs with rfl | rfl | rfl | rfl <;> rcases hc with rfl | rfl | rfl <;>
    exact ⟨rfl, by decide, by decide, by decide⟩

/-- For ReturnFromException, PrivilegedInUserMode and the statements about privileged instructions: supervisor mode, user mode, and
user mode with nothing privileged. -/
theorem witness_mayRun : (calm.mayRun .rte = true ∧ calm.slot = none) ∧ calm.mayRun .sleep = true ∧ calm.mayRun .invtlb = true ∧
    ({ userState with params := { calm.params with privileged := [] } } : State).mayRun (.ldcBank 15 7) = true ∧
    userState.mayRun (.stcSr 15) = false ∧ isIn Config.conventionalPrivileged (.ldcBankPop 15 7) = true ∧
    (Instr.ldcBankPop 15 7).wellFormed = true := by
  decide

/-- For SlotIllegal. -/
theorem witness_SlotIllegal : slotState.slot = some ⟨0x2000, 0x1000⟩ ∧ slotState.mayRun .rte = true := ⟨rfl, by decide⟩

/-- For FpuDisabled. -/
theorem witness_FpuDisabled : ({ calm with sr := 0x40008000 } : State).fd = true := by decide

/-- The FPU in split-double mode, with transfers of pairs. -/
def splitState : State := { calm with fpscr := 0x180000 }

/-- The FPU in double mode, with transfers of 8 bytes and the wide fields of `FPUL`. -/
def doubleState : State :=
  { longState with fpscr := 0x100000, params := { calm.params with fpulMoveBits := .w64, fpulIntBits := .w64 } }

/-- A machine without fat loads and without 48-bit addresses for 32-bit data. -/
def plainState : State :=
  { calm with sr := 0x40200000, params := { calm.params with hasFatLoad := false, allowAQwithoutDQ := false } }

/-- For StopsByName: each clause. -/
theorem witness_StopsByName :
    wideState.wide = true ∧ (plainState.params.hasFatLoad = false ∧ plainState.slot = none) ∧
    (({ calm with fpscr := 0x200000 } : State).fd = false ∧ ({ calm with fpscr := 0x200000 } : State).fpBank = true) ∧
    (({ longState with fpscr := 0x80000 } : State).fpBank = false ∧ ({ longState with fpscr := 0x80000 } : State).aq = true ∧
      ({ longState with fpscr := 0x80000 } : State).fpPrec = true) ∧
    (longState.fd = false ∧ longState.fpBank = false ∧ longState.aq = true ∧ longState.fpSize = false) ∧
    splitState.FpuReady .split ∧ (splitState.aq = false ∧ splitState.fpSize = true ∧ (15#4).getLsbD 0 = true) ∧
    calm.FpuReady .single ∧
    plainState.params.hasMMU = false ∧ plainState.accepted = none ∧ plainState.asleep = false ∧ plainState.aq = true ∧ plainState.dq = false ∧
    plainState.params.allowAQwithoutDQ = false :=
  ⟨by decide, by decide, by decide, by decide, by decide, ⟨by decide, by decide, by decide⟩, by decide,
    ⟨by decide, by decide, by decide⟩, by decide, by decide, by decide, by decide, by decide, by decide⟩

/-- A state whose registers point at a device, at read-only memory, at nothing, at the last byte of memory, and at odd bytes. -/
def pointers : State :=
  { longState with
    gbr := 0x2000
    rh := #v[⟨0x8000, 0⟩, ⟨0xFFFFFFFF, 0xA0000000⟩, ⟨0xC000, 0⟩, ⟨0x7FFF, 0xFFFFFFF8⟩, ⟨0, 0x2001⟩, ⟨0, 0x2000⟩, ⟨0, 0x3000⟩,
      ⟨0x7FFF, 0xFFFFFFFF⟩]
    params := { calm.params with
      platform := [⟨0x5000, 0x10, .device⟩, ⟨0x5010, 0x10, .absent⟩, ⟨Config.startBlock, 0x10000, .rom⟩] } }

/-- For IndexedLoads, OtherLoads, PostIncrementLoads, PlainStores, OtherStores and ByteInstructions: accesses that can be made, at the
last bytes of memory and in read-only memory. -/
theorem witness_Reads : pointers.Reads (pointers.ea ((pointers.x 11).setWidth 64)) 8 8 ∧
    pointers.Writes (pointers.ea ((pointers.x 11).setWidth 64)) 8 8 ∧
    pointers.Reads (pointers.ea ((pointers.x 15).setWidth 64)) 1 1 ∧ pointers.Writes (pointers.ea (pointers.below 14 8)) 8 8 ∧
    pointers.Reads (pointers.ea ((pointers.x 9).setWidth 64)) 8 8 ∧
    pointers.Reads (pointers.ea ((pointers.x 0 + pointers.x 13).setWidth 64)) 4 4 ∧
    pointers.Writes (pointers.ea ((pointers.readSpecial .gbr + pointers.x 0).setWidth 64)) 1 1 :=
  ⟨⟨by decide, by decide, by decide⟩, ⟨by decide, by decide, by decide⟩, ⟨by decide, by decide, by decide⟩,
    ⟨by decide, by decide, by decide⟩, ⟨by decide, by decide, by decide⟩, ⟨by decide, by decide, by decide⟩,
    ⟨by decide, by decide, by decide⟩⟩

/-- For the same statements in 32-bit mode. -/
theorem witness_Reads_narrow : calm.Reads (calm.ea ((calm.x 1).setWidth 64)) calm.szLQ calm.szLQ ∧
    (world (sup 0) [(15, 0x10000)] []).Writes ((world (sup 0) [(15, 0x10000)] []).ea ((world (sup 0) [(15, 0x10000)] []).below 15 2))
      2 2 :=
  ⟨⟨by decide, by decide, by decide⟩, ⟨by decide, by decide, by decide⟩⟩

/-- For the clauses of the same statements about an access that misses: a misaligned address, one that is not canonical, one with
nothing there. -/
theorem witness_Misses : pointers.Misses (pointers.ea ((pointers.x 12).setWidth 64)) 8 8 ∧
    pointers.Misses (pointers.ea ((pointers.x 8).setWidth 64)) 1 1 ∧ pointers.Misses (pointers.ea 0x5010) 1 1 ∧
    pointers.Misses (pointers.ea (pointers.below 12 4)) 4 4 :=
  ⟨Or.inl (by decide), Or.inr (Or.inl (by decide)), Or.inr (Or.inr ⟨0, by decide, by decide⟩), Or.inl (by decide)⟩

/-- For SpecialPushes: all its hypotheses together, for a push that can be made and one that misses. -/
theorem witness_SpecialPushes :
    (Memory.wf pointers.mem ∧ pointers.mayRun (.stcSrPush 14) = true ∧ pointers.fd = false ∧
      pointers.Writes (pointers.ea (pointers.below 14 pointers.szLQ)) pointers.szLQ pointers.szLQ) ∧
    pointers.Misses (pointers.ea (pointers.below 12 pointers.szLQ)) pointers.szLQ pointers.szLQ :=
  ⟨⟨by decide, by decide, by decide, ⟨by decide, by decide, by decide⟩⟩, Or.inl (by decide)⟩

/-- For SpecialPops: all its hypotheses together, for a pop that can be made and one that misses. -/
theorem witness_SpecialPops :
    (pointers.mayRun (.ldcVbrPop 11) = true ∧ pointers.fd = false ∧
      pointers.Reads (pointers.ea ((pointers.x 11).setWidth 64)) pointers.szLQ pointers.szLQ) ∧
    pointers.Misses (pointers.ea ((pointers.x 12).setWidth 64)) pointers.szLQ pointers.szLQ :=
  ⟨⟨by decide, by decide, ⟨by decide, by decide, by decide⟩⟩, Or.inl (by decide)⟩

/-- For CopiesToGeneral and CopiesFromGeneral: supervisor mode with the FPU enabled, and user mode. -/
theorem witness_Copies : calm.mayRun (.stcVbr 3) = true ∧ calm.mayRun (.ldcVbr 3) = true ∧ calm.fd = false ∧
    userState.mayRun (.stcVbr 3) = false := by
  decide

/-- 64 bits wide, with literals that begin in memory and end on a device, or begin there. -/
def literalState : State := { pointers with pc := 0x4FF8 }

/-- 32 bits wide, with registers that point at a device, 4 bytes before it, 2 bytes before it, and at a byte of read-only memory. -/
def deviceState : State :=
  { world (sup 0) [(0, 0xA000FFFC), (1, 0x5000), (2, 0x4FFC), (3, 0x4FFE)] [] with
    params := { calm.params with platform := [⟨0x5000, 0x10, .device⟩, ⟨Config.startBlock, 0x10000, .rom⟩] } }

/-- For DeviceAccesses: a device and read-only memory for a plain access, the two parts of a literal, the two operands of `MAC.L` and
`MAC.W/Q` with one register for both, `TAS.B` and `CAS.L` in read-only memory, an instruction on a device. -/
theorem witness_DeviceAccesses :
    (pointers.OnDevice (pointers.ea 0x5008) 8 8 ∧ pointers.OnRom (pointers.ea 0xFFFFFFFFA000FFF8) 8 8 ∧ doubleState.fpBytes = 8) ∧
    (literalState.slot = none ∧ literalState.wide = true ∧ literalState.OnDevice (literalState.literal 1) 4 4 ∧
      literalState.Reads (literalState.literal 0) 4 4 ∧ literalState.OnDevice (literalState.ea (literalState.literal 0 + 4)) 4 4) ∧
    (deviceState.wide = false ∧ deviceState.OnDevice (deviceState.ea ((deviceState.x 1).setWidth 64)) 4 4 ∧
      deviceState.Reads (deviceState.ea ((deviceState.x 2).setWidth 64)) 4 4 ∧
      deviceState.OnDevice (deviceState.ea ((deviceState.x 2 + BitVec.ofNat deviceState.W 4).setWidth 64)) 4 4 ∧
      deviceState.Reads (deviceState.ea ((deviceState.x 3).setWidth 64)) 2 2 ∧
      deviceState.OnDevice (deviceState.ea ((deviceState.x 3 + BitVec.ofNat deviceState.W 2).setWidth 64)) 2 2) ∧
    (deviceState.OnRom (deviceState.ea ((deviceState.x 0).setWidth 64)) 4 4 ∧
      deviceState.OnRom (deviceState.ea ((deviceState.x 0).setWidth 64)) 1 1 ∧
      deviceState.OnRom (deviceState.ea ((deviceState.readSpecial .gbr + deviceState.x 0).setWidth 64)) 1 1 ∧
      deviceState.xNat 5 % 2 ^ 32 =
        (deviceState.valueAt deviceState.localOrder (deviceState.ea ((deviceState.x 0).setWidth 64)) 4).toNat) ∧
    ({ deviceState with pc := 0x500E } : State).OnDevice 0x500E 2 2 :=
  ⟨⟨⟨by decide, by decide, by decide, ⟨0, by decide, by decide⟩⟩, ⟨by decide, by decide, by decide, ⟨0, by decide, by decide⟩⟩,
      by decide⟩,
    ⟨rfl, by decide, ⟨by decide, by decide, by decide, ⟨0, by decide, by decide⟩⟩, ⟨by decide, by decide, by decide⟩,
      ⟨by decide, by decide, by decide, ⟨0, by decide, by decide⟩⟩⟩,
    ⟨by decide, ⟨by decide, by decide, by decide, ⟨0, by decide, by decide⟩⟩, ⟨by decide, by decide, by decide⟩,
      ⟨by decide, by decide, by decide, ⟨0, by decide, by decide⟩⟩, ⟨by decide, by decide, by decide⟩,
      ⟨by decide, by decide, by decide, ⟨0, by decide, by decide⟩⟩⟩,
    ⟨⟨by decide, by decide, by decide, ⟨0, by decide, by decide⟩⟩, ⟨by decide, by decide, by decide, ⟨0, by decide, by decide⟩⟩,
      ⟨by decide, by decide, by decide, ⟨0, by decide, by decide⟩⟩, by decide⟩,
    ⟨by decide, by decide, by decide, ⟨0, by decide, by decide⟩⟩⟩

/-- For DynamicShifts: a count that is not negative, a negative multiple of the width, and another negative count. -/
theorem witness_DynamicShifts : ∀ s ∈ [world (sup 0) [(1, 31), (2, 0xFFFFFFE0), (3, 0xFFFFFFFF)] []],
    0 ≤ s.xInt 1 ∧ (s.xInt 2 < 0 ∧ s.xNat 2 % s.W = 0) ∧ s.xInt 3 < 0 ∧ s.xNat 3 % s.W ≠ 0 := by
  decide

/-- For Exchanges, DivisionSteps and HalfMultiplications: the wide mode, and both relations of `Q` and `M`. -/
theorem witness_Modes : wideState.wide = true ∧ wideState.dq = true ∧ calm.dq = false ∧ calm.q = calm.m ∧
    ({ calm with sr := 0x40000100 } : State).q ≠ ({ calm with sr := 0x40000100 } : State).m := by
  decide

/-- Operands for `MAC.L`: the second register odd. -/
def macState : State := world (sup 2) [(1, 0x3000), (2, 0x3001)] []

/-- For MultiplyAccumulate: two operands, one register for both, and a second operand that misses. -/
theorem witness_MultiplyAccumulate : macState.wide = false ∧ macState.satur = true ∧ calm.satur = false ∧
    macState.Reads (macState.ea ((macState.x 1).setWidth 64)) 4 4 ∧
    macState.Reads (macState.ea ((macState.x 3).setWidth 64)) 4 4 ∧
    macState.Reads (macState.ea ((macState.x 1 + BitVec.ofNat macState.W 4).setWidth 64)) 4 4 ∧
    macState.Misses (macState.ea ((macState.x 2).setWidth 64)) 4 4 ∧ macState.Misses (macState.ea ((macState.x 2).setWidth 64)) 2 2 :=
  ⟨by decide, by decide, by decide, ⟨by decide, by decide, by decide⟩, ⟨by decide, by decide, by decide⟩,
    ⟨by decide, by decide, by decide⟩, Or.inl (by decide), Or.inl (by decide)⟩

/-- For CompareAndSwap: both roles, a match and no match. -/
theorem witness_CompareAndSwap : calm.params.casRoles = .compareRm ∧
    ({ calm with params := { calm.params with casRoles := .compareRn } } : State).params.casRoles = .compareRn ∧
    calm.Writes (calm.ea ((calm.x 0).setWidth 64)) 4 4 ∧
    calm.xNat 1 % 2 ^ 32 = (calm.valueAt calm.localOrder (calm.ea ((calm.x 0).setWidth 64)) 4).toNat ∧
    calm.xNat 15 % 2 ^ 32 ≠ (calm.valueAt calm.localOrder (calm.ea ((calm.x 0).setWidth 64)) 4).toNat :=
  ⟨rfl, rfl, ⟨by decide, by decide, by decide⟩, by decide, by decide⟩

/-- A literal that begins at the last DWord of memory. -/
def edgeState : State := { longState with pc := 0x7FFFFFFFFFF8 }

/-- A literal in the next region, which holds nothing. -/
def holeState : State := { pointers with pc := 0x500C }

/-- For PcRelative: both widths, the last literal of memory with its second half past the end, and a literal at nothing. -/
theorem witness_PcRelative :
    (calm.slot = none ∧ calm.wide = false ∧ calm.Reads (calm.literal 0xFF) 4 4) ∧
    (wideState.wide = true ∧ wideState.Reads (wideState.literal 0) 4 4 ∧
      wideState.Reads (wideState.ea (wideState.literal 0 + 4)) 4 4) ∧
    (edgeState.Reads (edgeState.literal 0) 4 4 ∧ edgeState.Misses (edgeState.ea (edgeState.literal 0 + 4)) 4 4) ∧
    holeState.Misses (holeState.literal 0) 4 4 :=
  ⟨⟨rfl, by decide, ⟨by decide, by decide, by decide⟩⟩,
    ⟨by decide, ⟨by decide, by decide, by decide⟩, ⟨by decide, by decide, by decide⟩⟩,
    ⟨⟨by decide, by decide, by decide⟩, Or.inr (Or.inl (by decide))⟩, Or.inr (Or.inr ⟨0, by decide, by decide⟩)⟩

/-- For StatusLoads: a delay slot, and one outside. -/
theorem witness_StatusLoads : slotState.mayRun (.ldcSr 15) = true ∧ calm.mayRun (.ldcSrPop 15) = true ∧ calm.slot = none ∧
    slotState.Reads (slotState.ea ((slotState.x 1).setWidth 64)) slotState.szLQ slotState.szLQ ∧
    macState.Misses (macState.ea ((macState.x 2).setWidth 64)) macState.szLQ macState.szLQ :=
  ⟨by decide, by decide, rfl, ⟨by decide, by decide, by decide⟩, Or.inl (by decide)⟩

/-- For BranchInstructions and FatLoads. -/
theorem witness_Branches : calm.slot = none ∧ calm.params.hasFatLoad = true ∧ calm.t = false ∧
    ({ calm with sr := 0x40000001 } : State).t = true := by
  decide

/-- For FpuCalculations and FpuSignsAndConstants: the three modes, with operands they take, and both widths of `FPUL`. -/
theorem witness_FpuCalculations : (calm.FpuReady .single ∧ FpMode.single.takes 15) ∧
    (splitState.FpuReady .split ∧ FpMode.split.takes 14) ∧ (doubleState.FpuReady .double ∧ FpMode.double.takes 15) ∧
    calm.fpulInt = .w32 ∧ doubleState.fpulInt = .w64 :=
  ⟨⟨⟨by decide, by decide, by decide⟩, by intro h; cases h⟩, ⟨⟨by decide, by decide, by decide⟩, by intro _; decide⟩,
    ⟨⟨by decide, by decide, by decide⟩, by intro h; cases h⟩, by decide, by decide⟩

/-- For FpuNumerics: 1 + 2 = 3, 1 * 3 = 3, the greatest integer that the fraction holds, the least denormal. -/
theorem witness_FpuNumerics : calm.params.numerics = .ieee ∧ unpack .single false 0x3F800000 = .finite false (2 ^ 149) ∧
    unpack .single false 0x40000000 = .finite false (2 ^ 150) ∧ unpack .single false 0x40400000 = .finite false (3 * 2 ^ 149) ∧
    signedUnits false (3 * 2 ^ 149) = signedUnits false (2 ^ 149) + signedUnits false (2 ^ 150) ∧
    signedUnits false (3 * 2 ^ 149) * unitsOfOne .single = signedUnits false (2 ^ 149) * signedUnits false (3 * 2 ^ 149) ∧
    (-(2 ^ 24 - 1 : Int)).natAbs < 2 ^ (fractionBits .single + 1) ∧ -2 ^ (32 - 1) ≤ -(2 ^ 24 - 1 : Int) ∧
    unpack .single false 0x80000001 = .finite true 1 := by
  decide

/-- For FpuMoves and FpuMemoryMoves: one register, a pair, a register of 64 bits. -/
theorem witness_FpuMoves : calm.FpMoves 15 ∧ splitState.FpMoves 14 ∧ doubleState.FpMoves 15 ∧
    (calm.aq = false ∧ calm.fpSize = false) ∧ (splitState.aq = false ∧ splitState.fpSize = true) ∧ doubleState.aq = true ∧
    doubleState.params.fpulMoveBits = .w64 ∧ splitState.Writes (splitState.ea (splitState.below 15 8)) 8 8 ∧
    splitState.Misses (splitState.ea 4) 8 8 :=
  ⟨⟨by decide, by decide, by decide, by decide⟩, ⟨by decide, by decide, by decide, by decide⟩,
    ⟨by decide, by decide, by decide, by decide⟩, by decide, by decide, by decide, by decide,
    ⟨by decide, by decide, by decide⟩, Or.inl (by decide)⟩

/-- For FpuMemoryMoves: all its hypotheses together, for one register and for a pair. -/
theorem witness_FpuMemoryMoves : ∀ s ∈ [world (sup 0) [(15, 0x4000)] [], { world (sup 0) [(15, 0x4000)] [] with fpscr := 0x180000 }],
    Memory.wf s.mem ∧ s.FpMoves 14 ∧ s.Reads (s.ea ((s.x 15).setWidth 64)) s.fpBytes s.fpBytes ∧
    s.Writes (s.ea ((s.x 15).setWidth 64)) s.fpBytes s.fpBytes ∧
    s.Writes (s.ea ((s.x 0 + s.x 15).setWidth 64)) s.fpBytes s.fpBytes ∧
    s.Writes (s.ea (s.below 15 s.fpBytes)) s.fpBytes s.fpBytes := by
  intro s hs
  simp only [List.mem_cons, List.not_mem_nil, or_false] at hs
  rcases hs with rfl | rfl <;>
    exact ⟨by decide, ⟨by decide, by decide, by decide, by decide⟩, ⟨by decide, by decide, by decide⟩,
      ⟨by decide, by decide, by decide⟩, ⟨by decide, by decide, by decide⟩, ⟨by decide, by decide, by decide⟩⟩

end Sys2Proof.Tests
end

section
/-!
PROOFS. The instructions without operands that set or clear one flag, and `NOP` (file 40).
-/

namespace Sys2Proof.Machine

/-- An instruction that writes `SR.S`. -/
theorem completes_of_putSatur {i : Instr} {s : State} {b : Bool} (h : exec i s = .next ((s.putSatur b).advance 2)) :
    Completes i s { srBits := [1] } fun t => t.satur = b := by
  refine completes_of_next h (frame_putSatur s b) rfl rfl (by simp) ?_
  rw [State.advance_satur, State.putSatur_satur]

/-- Settles O32: each flag instruction is one update of `SR` with the frame of that update, and `NOP` is the advance alone. -/
theorem singleFlags : Obligations.SingleFlags := by
  refine ⟨⟨rfl, rfl, rfl, rfl, rfl⟩, fun s => ⟨?clrt, ?sett, ?clrs, ?sets, ?nop⟩⟩
  case clrt => exact setsT_of_putT (b := false) rfl (by simp)
  case sett => exact setsT_of_putT (b := true) rfl (by simp)
  case clrs => exact completes_of_putSatur rfl
  case sets => exact completes_of_putSatur rfl
  case nop => exact completes_of_next (t := s) rfl (Frame.refl _ rfl s) rfl rfl rfl rfl

end Sys2Proof.Machine
end

section
/-!
PROOFS. The multiplications: products in twice the width of their operands as numbers, and the write of such a product to `MACH`
and `MACL` (40 R215, 42 R274, R281).
-/

namespace Sys2Proof.Machine

/-! Products in twice the width. -/

/-- An unsigned product fits twice the width of its operands. -/
theorem toNat_setWidth_mul_setWidth {w : Nat} (a b : BitVec w) :
    (a.setWidth (2 * w) * b.setWidth (2 * w)).toNat = a.toNat * b.toNat := by
  have hfit : a.toNat * b.toNat < 2 ^ (2 * w) := by
    rw [two_mul, pow_add]
    exact Nat.mul_lt_mul'' a.isLt b.isLt
  rw [BitVec.toNat_mul, BitVec.toNat_setWidth_of_le (by omega), BitVec.toNat_setWidth_of_le (by omega), Nat.mod_eq_of_lt hfit]

/-- A signed product in twice the width of its operands is the exact product modulo the square of `2 ^ w`. -/
theorem toNat_signExtend_mul_signExtend {w : Nat} (a b : BitVec w) :
    ((a.signExtend (2 * w) * b.signExtend (2 * w)).toNat : Int) = a.toInt * b.toInt % (2 ^ w * 2 ^ w) := by
  have hof : a.signExtend (2 * w) * b.signExtend (2 * w) = BitVec.ofInt (2 * w) (a.toInt * b.toInt) :=
    (BitVec.ofInt_mul _ _).symm
  rw [hof, BitVec.toNat_ofInt, Int.toNat_of_nonneg (Int.emod_nonneg _ (by positivity)), two_mul, pow_add]
  push_cast
  rfl

/-- The quotient of a residue: of `z` modulo `a * b` by `a` it is the residue of the quotient modulo `b`. -/
theorem emod_mul_ediv_left (z : Int) {a : Int} (b : Int) (ha : 0 < a) : z % (a * b) / a = z / a % b := by
  rw [Int.emod_def, Int.emod_def, ← Int.ediv_ediv_of_nonneg ha.le, Int.mul_assoc, Int.sub_mul_ediv_left _ _ ha.ne']

/-- The high half of a signed product: the exact product divided by `2 ^ w`, as an unsigned number of `w` bits. -/
theorem toNat_signedProduct_high {w : Nat} (a b : BitVec w) :
    (a.signExtend (2 * w) * b.signExtend (2 * w)).toNat / 2 ^ w = (a.toInt * b.toInt / 2 ^ w % 2 ^ w).toNat := by
  rw [← emod_mul_ediv_left _ _ (by positivity), ← toNat_signExtend_mul_signExtend]
  norm_cast

/-- The low half of a signed product: the exact product as an unsigned number of `w` bits. -/
theorem toNat_signedProduct_low {w : Nat} (a b : BitVec w) :
    (a.signExtend (2 * w) * b.signExtend (2 * w)).toNat % 2 ^ w = (a.toInt * b.toInt % 2 ^ w).toNat := by
  rw [← Int.emod_emod_of_dvd (a.toInt * b.toInt) (dvd_mul_right (2 ^ w) (2 ^ w)), ← toNat_signExtend_mul_signExtend]
  norm_cast

/-! Writes of two special registers. -/

/-- A write of another register keeps what was written. -/
theorem wrote_writeSpecial_of_ne {s t : State} {q r : Special} {v : Nat} (hq : Wrote s q v t) (h : q ≠ r) {w : Nat}
    (x : BitVec w) : Wrote s q v (t.writeSpecial r x) := by
  unfold Wrote at *
  rw [State.special_writeSpecial_of_ne t x h]
  exact hq

/-- A write in a later state that has the register and `SR` as they were before, from the state before. -/
theorem wrote_writeSpecial_of_eq {s t : State} {r : Special} (hr : t.special r = s.special r) (hsr : t.sr = s.sr) {w : Nat}
    (x : BitVec w) : Wrote s r x.toNat (t.writeSpecial r x) := by
  have hwide : t.wide = s.wide := by simp only [State.wide, State.dq, State.aq, hsr]
  have hw := t.wrote_writeSpecial r x
  unfold Wrote at *
  rw [hw, hr, hwide]

/-! A product of twice the width into `MACH` and `MACL`. -/

theorem frame_writeProduct (s : State) (p : BitVec (2 * s.W)) :
    Frame { specials := [.mach, .macl] } s (s.writeProduct p) :=
  (frame_writeSpecial s (by decide) _).trans (frame_writeSpecial _ (by decide) _) (.inl rfl) (by simp) (by simp) (by simp)
    (by simp) (by simp) rfl

theorem State.wrote_mach_writeProduct (s : State) (p : BitVec (2 * s.W)) :
    Wrote s .mach (p.toNat / 2 ^ s.W) (s.writeProduct p) := by
  have hhigh : (p.extractLsb' s.W s.W).toNat = p.toNat / 2 ^ s.W := by
    rw [BitVec.extractLsb'_toNat, Nat.shiftRight_eq_div_pow, Nat.mod_eq_of_lt]
    apply Nat.div_lt_of_lt_mul
    rw [← pow_add, ← two_mul]
    exact p.isLt
  rw [← hhigh]
  exact wrote_writeSpecial_of_ne (s.wrote_writeSpecial .mach _) (by decide) _

theorem State.wrote_macl_writeProduct (s : State) (p : BitVec (2 * s.W)) :
    Wrote s .macl (p.toNat % 2 ^ s.W) (s.writeProduct p) := by
  rw [← BitVec.toNat_setWidth]
  exact wrote_writeSpecial_of_eq rfl rfl _

/-- An instruction that writes a product of twice the width. -/
theorem completes_of_writeProduct {i : Instr} {s : State} {p : BitVec (2 * s.W)} {high low : Nat}
    (h : exec i s = .next ((s.writeProduct p).advance 2)) (hhigh : p.toNat / 2 ^ s.W = high) (hlow : p.toNat % 2 ^ s.W = low) :
    Completes i s { specials := [.mach, .macl] } fun t => Wrote s .mach high t ∧ Wrote s .macl low t := by
  subst hhigh hlow
  exact completes_of_next h (frame_writeProduct s p) rfl rfl rfl
    ⟨wrote_advance (s.wrote_mach_writeProduct p), wrote_advance (s.wrote_macl_writeProduct p)⟩

/-! The instructions. -/

theorem decodeWord_mulLq (m n : Reg) : decodeWord (word4 0x0 n m 0x7) = .mulLq m n := by
  rw [decodeWord_word4]; rfl

theorem decodeWord_dmuluLq (m n : Reg) : decodeWord (word4 0x3 n m 0x5) = .dmuluLq m n := by
  rw [decodeWord_word4]; rfl

theorem decodeWord_dmulsLq (m n : Reg) : decodeWord (word4 0x3 n m 0xD) = .dmulsLq m n := by
  rw [decodeWord_word4]; rfl

theorem puts_mulLq (s : State) (m n : Reg) : Puts (.mulLq m n) s .macl (s.xNat n * s.xNat m % 2 ^ s.W) :=
  puts_of_writeSpecial (by decide) rfl (BitVec.toNat_mul _ _)

theorem completes_dmuluLq (s : State) (m n : Reg) :
    Completes (.dmuluLq m n) s { specials := [.mach, .macl] } fun t =>
      Wrote s .mach (s.xNat n * s.xNat m / 2 ^ s.W) t ∧ Wrote s .macl (s.xNat n * s.xNat m % 2 ^ s.W) t :=
  have hproduct := toNat_setWidth_mul_setWidth (s.x n) (s.x m)
  completes_of_writeProduct rfl (congrArg (· / 2 ^ s.W) hproduct) (congrArg (· % 2 ^ s.W) hproduct)

theorem completes_dmulsLq (s : State) (m n : Reg) :
    Completes (.dmulsLq m n) s { specials := [.mach, .macl] } fun t =>
      Wrote s .mach (s.xInt n * s.xInt m / 2 ^ s.W % 2 ^ s.W).toNat t ∧
      Wrote s .macl (s.xInt n * s.xInt m % 2 ^ s.W).toNat t :=
  completes_of_writeProduct rfl (toNat_signedProduct_high _ _) (toNat_signedProduct_low _ _)

/-- Settles O38: the low half is the product of `BitVec`; both halves are read off the product in twice the width, which is exact
for unsigned operands and exact modulo its width for signed ones. -/
theorem multiplications : Obligations.Multiplications := fun s m n =>
  ⟨⟨decodeWord_mulLq m n, decodeWord_dmuluLq m n, decodeWord_dmulsLq m n⟩, puts_mulLq s m n, completes_dmuluLq s m n,
    completes_dmulsLq s m n⟩

end Sys2Proof.Machine
end

section
/-!
PROOFS. `AND`, `XOR` and `OR` of registers, and `MOV #imm` (41 R260 to R262, 46 R424).
-/

namespace Sys2Proof.Machine

/-! The words. -/

theorem decodeWord_and (m n : Reg) : decodeWord (word4 0x2 n m 0x9) = .and m n := by
  rw [decodeWord_word4]; rfl

theorem decodeWord_xor (m n : Reg) : decodeWord (word4 0x2 n m 0xA) = .xor m n := by
  rw [decodeWord_word4]; rfl

theorem decodeWord_or (m n : Reg) : decodeWord (word4 0x2 n m 0xB) = .or m n := by
  rw [decodeWord_word4]; rfl

theorem decodeWord_movImm (n : Reg) (i1 i0 : Nibble) : decodeWord (word4 0xE n i1 i0) = .movImm (i1 ++ i0) n := by
  rw [decodeWord_word4]; rfl

/-! The instructions. -/

theorem yieldsBits_and (s : State) (m n : Reg) : YieldsBits (.and m n) s n fun k => s.xBit n k && s.xBit m k :=
  yieldsBits_of_setX rfl fun _ _ => BitVec.getLsbD_and

theorem yieldsBits_xor (s : State) (m n : Reg) : YieldsBits (.xor m n) s n fun k => s.xBit n k ^^ s.xBit m k :=
  yieldsBits_of_setX rfl fun _ _ => BitVec.getLsbD_xor

theorem yieldsBits_or (s : State) (m n : Reg) : YieldsBits (.or m n) s n fun k => s.xBit n k || s.xBit m k :=
  yieldsBits_of_setX rfl fun _ _ => BitVec.getLsbD_or

/-- The sign extension keeps the number: a register is never narrower than the immediate. -/
theorem yieldsInt_movImm (s : State) (imm : BitVec 8) (n : Reg) : YieldsInt (.movImm imm n) s n imm.toInt :=
  yieldsInt_of_setX rfl (BitVec.toInt_signExtend_of_le (State.W_le_of_le (count := 1) (by decide)))

/-- Settles O30: each instruction is one write of a register at its own width, with the frame of that write; the bits are those of
`BitVec`'s operations, and the number of the immediate survives its sign extension. -/
theorem logicAndImmediate : Obligations.LogicAndImmediate := fun s m n i1 i0 =>
  ⟨⟨decodeWord_and m n, decodeWord_xor m n, decodeWord_or m n, decodeWord_movImm n i1 i0⟩, yieldsBits_and s m n,
    yieldsBits_xor s m n, yieldsBits_or s m n, yieldsInt_movImm s (i1 ++ i0) n⟩

end Sys2Proof.Machine
end

section
/-!
PROOFS. What one instruction can do (40 to 49): its body changes registers, memory and tags in a few ways and leaves the program
counter and the delay slot; then it advances, jumps, takes a delayed branch, or is abandoned. One case split over the instructions
says which; the statements about every step are read off it.
-/

namespace Sys2Proof.Machine

/-! What a body leaves. -/

/-- What the body of every instruction keeps: the program counter and the slot, the parameters and the interrupt input, and the
canonical forms of the memory and of the tags. -/
structure Stays (s t : State) : Prop where
  /-- The program counter is left to the end of the instruction. -/
  pc : t.pc = s.pc
  /-- So is the delay slot. -/
  slot : t.slot = s.slot
  /-- The parameters are unchanged. -/
  params : t.params = s.params
  /-- The interrupt input is unchanged. -/
  irqInput : t.irqInput = s.irqInput
  /-- The memory stays in its canonical form. -/
  mem : Memory.wf s.mem → Memory.wf t.mem
  /-- The tags stay in their canonical form. -/
  tags : Tags.wf s.xtag → Tags.wf t.xtag
  /-- The tags stay at even addresses. -/
  even : (∀ u ∈ s.xtag, u.addr % 2 = 0) → ∀ u ∈ t.xtag, u.addr % 2 = 0

/-- What user mode may not change stays, and so does `SR`. -/
structure Calm (s t : State) : Prop extends Stays s t where
  /-- `SR` is unchanged. -/
  sr : t.sr = s.sr
  /-- The core stays awake or asleep. -/
  asleep : t.asleep = s.asleep
  /-- `VBR` is unchanged. -/
  vbr : t.vbr = s.vbr
  /-- `SSR` is unchanged. -/
  ssr : t.ssr = s.ssr
  /-- `SPC` is unchanged. -/
  spc : t.spc = s.spc
  /-- `DBR` is unchanged. -/
  dbr : t.dbr = s.dbr
  /-- The inactive bank is unchanged. -/
  others : ∀ i, t.otherReg i = s.otherReg i

/-- What user mode may not change stays: `T`, `S`, `Q`, `M` and `DQ` are the bits of `SR` that may differ. -/
structure Confined (s t : State) : Prop where
  /-- The core stays awake or asleep. -/
  asleep : t.asleep = s.asleep
  /-- `VBR` is unchanged. -/
  vbr : t.vbr = s.vbr
  /-- `SSR` is unchanged. -/
  ssr : t.ssr = s.ssr
  /-- `SPC` is unchanged. -/
  spc : t.spc = s.spc
  /-- `DBR` is unchanged. -/
  dbr : t.dbr = s.dbr
  /-- The bank that was inactive is unchanged. -/
  others : ∀ i, t.otherAt s.bankBActive i = s.otherReg i
  /-- The other bits of `SR` are unchanged. -/
  status : ∀ k, k ∉ [0, 1, 8, 9, 20] → t.sr.getLsbD k = s.sr.getLsbD k

/-- The body of an instruction: one that is not privileged is confined. -/
structure Body (privileged : Bool) (s t : State) : Prop extends Stays s t where
  /-- Only a privileged instruction leaves the confines. -/
  confined : privileged = false → Confined s t

theorem Stays.refl (s : State) : Stays s s := ⟨rfl, rfl, rfl, rfl, id, id, id⟩

theorem Stays.trans {s t u : State} (h : Stays s t) (g : Stays t u) : Stays s u :=
  ⟨g.pc.trans h.pc, g.slot.trans h.slot, g.params.trans h.params, g.irqInput.trans h.irqInput, g.mem ∘ h.mem, g.tags ∘ h.tags,
    g.even ∘ h.even⟩

theorem Calm.refl (s : State) : Calm s s := ⟨.refl s, rfl, rfl, rfl, rfl, rfl, rfl, fun _ => rfl⟩

theorem Calm.trans {s t u : State} (h : Calm s t) (g : Calm t u) : Calm s u :=
  ⟨h.toStays.trans g.toStays, g.sr.trans h.sr, g.asleep.trans h.asleep, g.vbr.trans h.vbr, g.ssr.trans h.ssr, g.spc.trans h.spc,
    g.dbr.trans h.dbr, fun i => (g.others i).trans (h.others i)⟩

theorem Calm.bankBActive {s t : State} (h : Calm s t) : t.bankBActive = s.bankBActive := by
  rw [State.bankBActive, State.bankBActive, h.sr, h.params]

theorem Calm.confined {s t : State} (h : Calm s t) : Confined s t where
  asleep := h.asleep
  vbr := h.vbr
  ssr := h.ssr
  spc := h.spc
  dbr := h.dbr
  others i := by rw [← h.bankBActive]; exact h.others i
  status _ _ := by rw [h.sr]

theorem Calm.body {s t : State} (h : Calm s t) (p : Bool) : Body p s t := ⟨h.toStays, fun _ => h.confined⟩

/-- A body that begins in a later state. -/
theorem Calm.trans_body {p : Bool} {s t u : State} (h : Calm s t) (g : Body p t u) : Body p s u where
  toStays := h.toStays.trans g.toStays
  confined hp :=
    have c := g.confined hp
    ⟨c.asleep.trans h.asleep, c.vbr.trans h.vbr, c.ssr.trans h.ssr, c.spc.trans h.spc, c.dbr.trans h.dbr,
      fun i => by rw [← h.bankBActive, c.others, h.others], fun k hk => by rw [c.status k hk, h.sr]⟩

/-- The bits of `SR` that user mode may change, after a body. -/
theorem Body.withStatus {p : Bool} {s t : State} (h : Body p s t) {v : BitVec 64}
    (hv : ∀ k, k ∉ [0, 1, 8, 9, 20] → v.getLsbD k = t.sr.getLsbD k) : Body p s { t with sr := v } where
  pc := h.pc
  slot := h.slot
  params := h.params
  irqInput := h.irqInput
  mem := h.mem
  tags := h.tags
  even := h.even
  confined hp :=
    have c := h.confined hp
    ⟨c.asleep, c.vbr, c.ssr, c.spc, c.dbr, c.others, fun k hk => (hv k hk).trans (c.status k hk)⟩

theorem Body.withBit {p : Bool} {s t : State} (h : Body p s t) (k : Nat) (hk : k ∈ [0, 1, 8, 9, 20]) (b : Bool) :
    Body p s { t with sr := putBit t.sr k b } :=
  h.withStatus fun j hj => by
    have hne : j ≠ k := fun h => hj (h ▸ hk)
    rw [getLsbD_putBit, if_neg fun h => hne h.1]

theorem Body.putT {p : Bool} {s t : State} (h : Body p s t) (b : Bool) : Body p s (t.putT b) := h.withBit 0 (by decide) b
theorem Body.putSatur {p : Bool} {s t : State} (h : Body p s t) (b : Bool) : Body p s (t.putSatur b) := h.withBit 1 (by decide) b
theorem Body.putQ {p : Bool} {s t : State} (h : Body p s t) (b : Bool) : Body p s (t.putQ b) := h.withBit 8 (by decide) b
theorem Body.putM {p : Bool} {s t : State} (h : Body p s t) (b : Bool) : Body p s (t.putM b) := h.withBit 9 (by decide) b
theorem Body.putDQ {p : Bool} {s t : State} (h : Body p s t) (b : Bool) : Body p s (t.putDQ b) := h.withBit 20 (by decide) b

/-! The updates that bodies are made of. -/

/-- Registers that user mode may write, beside the general ones. -/
theorem Calm.registers (s : State) (fr : Vector Reg64 16) (gbr mach macl pr fpscr fpul : BitVec 64) (draws : Nat) :
    Calm s { s with fr := fr, gbr := gbr, mach := mach, macl := macl, pr := pr, fpscr := fpscr, fpul := fpul, draws := draws } :=
  ⟨⟨rfl, rfl, rfl, rfl, id, id, id⟩, rfl, rfl, rfl, rfl, rfl, rfl, fun _ => rfl⟩

theorem Calm.putReg (s : State) (n : Reg) (r : Reg64) (k : Nat) : Calm s ((s.putReg n r).drawn k) :=
  ⟨⟨rfl, rfl, rfl, rfl, id, id, id⟩, rfl, rfl, rfl, rfl, rfl, rfl, s.otherReg_putReg n r⟩

theorem Calm.setX (s : State) (n : Reg) {w : Nat} (v : BitVec w) : Calm s (s.setX n v) := .putReg s n _ _

theorem Calm.putBytes (s : State) (o : ByteOrder) (a : BitVec 64) (count v : Nat) : Calm s (s.putBytes o a count v) :=
  ⟨⟨rfl, rfl, rfl, rfl, Memory.wf_writeBytes, Tags.wf_mark, fun h _ hu =>
    have ⟨w, hw, haddr, _⟩ := Tags.mem_mark hu
    haddr ▸ h w hw⟩, rfl, rfl, rfl, rfl, rfl, rfl, fun _ => rfl⟩

theorem Calm.forgetTags (s : State) : Calm s { s with xtag := [] } :=
  ⟨⟨rfl, rfl, rfl, rfl, id, fun _ => .nil, by simp⟩, rfl, rfl, rfl, rfl, rfl, rfl, fun _ => rfl⟩

theorem Calm.fvSet (s : State) (md : FpMode) (n : FReg) (v : BitVec md.format.width) : Calm s (s.fvSet md n v) := by
  cases md <;> exact .registers s ..

theorem Calm.mapSign (s : State) (f : Bool → Bool) (md : FpMode) (n : FReg) : Calm s (s.mapSign f md n) := by
  cases md <;> exact .registers s ..

theorem Calm.fpPlace (s : State) (t : FpTransfer) (n : FReg) (v : BitVec 64) : Calm s (s.fpPlace t n v) := by
  cases t <;> exact .registers s ..

/-- A privileged instruction writes what it likes of the special registers. -/
theorem stays_writeSpecial (s : State) (r : Special) {w : Nat} (v : BitVec w) : Stays s (s.writeSpecial r v) := by
  cases r <;> exact ⟨rfl, rfl, rfl, rfl, id, id, id⟩

theorem stays_setXOther (s : State) (n : BankReg) {w : Nat} (v : BitVec w) : Stays s (s.setXOther n v) :=
  ⟨rfl, rfl, rfl, rfl, id, id, id⟩

theorem Stays.body {s t : State} (h : Stays s t) : Body true s t := ⟨h, by simp⟩

/-! What a computation that may be abandoned answers. -/

/-- A computation answers something of which `Q` holds, or abandons the instruction: raising a cause in a state in which nothing
protected has changed, faulting, or refusing for a reason of its own. -/
inductive Answers {α : Type} (s : State) (Q : α → Prop) : Except Abort α → Prop where
  /-- It answers. -/
  | ok {a : α} (h : Q a) : Answers s Q (.ok a)
  /-- It raises a cause. -/
  | raise (c : Cause) {t : State} (h : Calm s t) : Answers s Q (.error (.raise c t))
  /-- It faults. -/
  | fault (f : Fault) : Answers s Q (.error (.fault f))
  /-- It refuses. -/
  | refuse {r : Refusal} (h : r ≠ .truncatedFetch) : Answers s Q (.error (.refuse r))

theorem Answers.bind {α β : Type} {s : State} {P : α → Prop} {Q : β → Prop} {m : Except Abort α} {f : α → Except Abort β}
    (hm : Answers s P m) (hf : ∀ a, P a → Answers s Q (f a)) : Answers s Q (m >>= f) := by
  cases hm with
  | ok h => exact hf _ h
  | raise c h => exact .raise c h
  | fault f => exact .fault f
  | refuse h => exact .refuse h

/-- A computation that begins in a later state. -/
theorem Answers.after {α : Type} {s t : State} {P Q : α → Prop} {m : Except Abort α} (h : Calm s t) (hm : Answers t P m)
    (hq : ∀ a, P a → Q a) : Answers s Q m := by
  cases hm with
  | ok hp => exact .ok (hq _ hp)
  | raise c hc => exact .raise c (h.trans hc)
  | fault f => exact .fault f
  | refuse hr => exact .refuse hr

/-- A computation that only looks at the state. -/
abbrev Looks {α : Type} (s : State) (m : Except Abort α) : Prop := Answers s (fun _ => True) m

theorem looks_ok {α : Type} (s : State) (a : α) : Looks s (.ok a) := .ok trivial

theorem looks_require (s : State) (ok : Bool) (c : Cause) : Looks s (s.require ok c) := by
  cases ok
  · exact .raise c (.refl s)
  · exact .ok trivial

theorem looks_demand (s : State) (ok : Bool) {r : Refusal} (h : r ≠ .truncatedFetch) : Looks s (demand ok r) := by
  cases ok
  · exact .refuse h
  · exact .ok trivial

theorem looks_checkAccess (s : State) (kind : AccessKind) (e : BitVec 64) (count align : Nat) :
    Looks s (s.checkAccess kind e count align) := by
  rcases s.checkAccess_cases kind e count align with h | h | h | h <;> rw [h]
  · exact .ok trivial
  · exact .raise _ (.refl s)
  · exact .refuse (by decide)
  · exact .refuse (by decide)

theorem looks_readMem (s : State) (o : ByteOrder) (a : BitVec 64) (count : Nat) : Looks s (s.readMem o a count) :=
  (looks_checkAccess s ..).bind fun _ _ => .ok trivial

theorem looks_load (s : State) {w : Nat} (a : BitVec w) (count : Nat) : Looks s (s.load a count) :=
  (looks_readMem s ..).bind fun _ _ => .ok trivial

theorem looks_loadPc (s : State) (a : BitVec 64) : Looks s (s.loadPc a) := by
  unfold State.loadPc
  split
  · exact (looks_readMem s ..).bind fun _ _ => (looks_readMem s ..).bind fun _ _ => .ok trivial
  · exact (looks_readMem s ..).bind fun _ _ => .ok trivial

theorem answers_store (s : State) {wa w : Nat} (a : BitVec wa) (count : Nat) (v : BitVec w) :
    Answers s (Calm s) (s.store a count v) :=
  (looks_checkAccess s ..).bind fun _ _ => .ok (.putBytes s ..)

theorem answers_pushAt (s : State) (n : Reg) (count : Nat) (v : BitVec s.W) : Answers s (Calm s) (s.pushAt n count v) :=
  (answers_store s ..).bind fun _ h => .ok (h.trans (.setX _ n _))

theorem answers_popAt (s : State) (m : Reg) (count : Nat) : Answers s (fun p => Calm s p.2) (s.popAt m count) :=
  (looks_load s ..).bind fun _ _ => .ok (.setX s m _)

theorem answers_macOperands (s : State) (m n : Reg) (count : Nat) :
    Answers s (fun p => Calm s p.2) (s.macOperands m n count) :=
  (answers_popAt s n count).bind fun p hp =>
    ((answers_popAt p.2 m count).after hp fun _ hq => hp.trans hq).bind fun _ hq => .ok hq

theorem looks_requireFpuGroup (s : State) : Looks s s.requireFpuGroup :=
  (looks_require s ..).bind fun _ _ => looks_demand s _ (by decide)

theorem looks_requireFpMode (s : State) : Looks s s.requireFpMode := by
  unfold State.requireFpMode
  split
  · exact .ok trivial
  · exact .refuse (by decide)

theorem looks_requireOperand (s : State) (md : FpMode) (i : FReg) : Looks s (requireOperand md i) := looks_demand s _ (by decide)

theorem looks_requireFatLoad (s : State) : Looks s s.requireFatLoad :=
  (looks_require s ..).bind fun _ _ => looks_demand s _ (by decide)

theorem looks_requireTransfer (s : State) (i : FReg) : Looks s (s.requireTransfer i) := by
  unfold State.requireTransfer
  split
  · exact .ok trivial
  · split
    · exact .refuse (by decide)
    · exact .ok trivial
  · exact .refuse (by decide)
  · exact .ok trivial

theorem looks_fpLoad (s : State) (t : FpTransfer) {w : Nat} (a : BitVec w) : Looks s (s.fpLoad t a) := by
  cases t
  · exact (looks_readMem s ..).bind fun _ _ => .ok trivial
  · exact (looks_checkAccess s ..).bind fun _ _ => .ok trivial
  · exact (looks_readMem s ..).bind fun _ _ => .ok trivial

theorem answers_fpStore (s : State) (t : FpTransfer) {w : Nat} (a : BitVec w) (i : FReg) : Answers s (Calm s) (s.fpStore t a i) := by
  cases t
  · exact answers_store s ..
  · exact (looks_checkAccess s ..).bind fun _ _ => .ok ((Calm.putBytes s ..).trans (.putBytes ..))
  · exact answers_store s ..

/-! The ends of an instruction. -/

/-- Everything that an instruction, privileged or not, can answer from a state. -/
inductive Ends (p : Bool) (s : State) : Host.Outcome State Fault Refusal → Prop where
  /-- It goes on to the next instruction, or from a delay slot to the pending target. -/
  | advance {t : State} (h : Body p s t) (len : BitVec 64) : Ends p s (.next (t.advance len))
  /-- It takes a delayed branch. -/
  | delay {t : State} (h : Body p s t) (target : BitVec 64) {len : BitVec 64} (hlen : len = 2 ∨ len = 6) :
      Ends p s (.next (t.delayTo target len))
  /-- It branches at once. -/
  | jump {t : State} (h : Body p s t) (target : BitVec 64) : Ends p s (.next { t with pc := t.ea target, slot := none })
  /-- It enters a trap. -/
  | trap (c : Cause) {t : State} (h : Calm s t) : Ends p s (trapEntry c t)
  /-- It faults. -/
  | fault (f : Fault) : Ends p s (.fault f)
  /-- It refuses. -/
  | refuse {r : Refusal} (h : r ≠ .truncatedFetch) : Ends p s (.refused r)

theorem Ends.finish {p : Bool} {s : State} {m : Except Abort State} (h : Answers s (Body p s) m) (len : BitVec 64 := 2) :
    Ends p s (finish m len) := by
  cases h with
  | ok h => exact .advance h len
  | raise c h => exact .trap c h
  | fault f => exact .fault f
  | refuse h => exact .refuse h

theorem Ends.settle {p : Bool} {s : State} {m : Except Abort State} (h : Answers s (fun t => Ends p s (.next t)) m) :
    Ends p s (settle m) := by
  cases h with
  | ok h => exact h
  | raise c h => exact .trap c h
  | fault f => exact .fault f
  | refuse h => exact .refuse h

/-- An instruction that begins in a later state. -/
theorem Ends.after {p : Bool} {s t : State} {o : Host.Outcome State Fault Refusal} (h : Calm s t) (ho : Ends p t o) :
    Ends p s o := by
  cases ho with
  | advance hb len => exact .advance (h.trans_body hb) len
  | delay hb target hlen => exact .delay (h.trans_body hb) target hlen
  | jump hb target => exact .jump (h.trans_body hb) target
  | trap c hc => exact .trap c (h.trans hc)
  | fault f => exact .fault f
  | refuse hr => exact .refuse hr

/-- An instruction whose body changes nothing protected. -/
theorem Ends.calm {p : Bool} {s t : State} (h : Calm s t) : Ends p s (.next (t.advance 2)) := .advance (h.body p) 2

theorem Ends.setX {p : Bool} {s : State} {n : Reg} {w : Nat} {v : BitVec w} : Ends p s (.next ((s.setX n v).advance 2)) :=
  .calm (.setX s n v)

theorem Ends.setXT {p : Bool} {s : State} {n : Reg} {w : Nat} {v : BitVec w} {b : Bool} :
    Ends p s (.next (((s.setX n v).putT b).advance 2)) := .advance (((Calm.setX s n v).body p).putT b) 2

theorem Ends.putT {p : Bool} {s : State} {b : Bool} : Ends p s (.next ((s.putT b).advance 2)) :=
  .advance (((Calm.refl s).body p).putT b) 2

/-- A body after a check. -/
theorem Ends.checked {p : Bool} {s t : State} {check : Except Abort Unit} (hc : Looks s check) (ht : Body p s t)
    (len : BitVec 64 := 2) : Ends p s (Machine.finish (do check; pure t) len) := .finish (hc.bind fun _ _ => .ok ht) len

theorem Ends.illegal {p : Bool} {s : State} : Ends p s (execIllegal s) := .trap _ (.refl s)

theorem Ends.loadInto {p : Bool} {s : State} {w : Nat} {a : BitVec w} {count : Nat} {n : Reg} :
    Ends p s (s.loadInto a count n) := .finish ((looks_load s ..).bind fun _ _ => .ok ((Calm.setX s n _).body p))

theorem Ends.storeAt {p : Bool} {s : State} {a v : BitVec s.W} {count : Nat} : Ends p s (s.storeAt a count v) :=
  .finish ((answers_store s a count v).after (.refl s) fun _ h => h.body p)

theorem Ends.pushAt {p : Bool} {s : State} {n : Reg} {count : Nat} {v : BitVec s.W} :
    Ends p s (Machine.finish (s.pushAt n count v)) :=
  .finish ((answers_pushAt s n count v).after (.refl s) fun _ h => h.body p)

theorem Ends.popInto {p : Bool} {s : State} {m n : Reg} {count : Nat} : Ends p s (s.popInto m n count) := by
  refine .finish ((looks_load s ..).bind fun v _ => .ok (Calm.body ?_ p))
  split
  · exact .setX s n _
  · exact (Calm.setX s m _).trans (.setX _ n _)

theorem Ends.copyFrom {p : Bool} {s : State} {check : Except Abort Unit} (hc : Looks s check) {r : Special} {n : Reg} :
    Ends p s (copyFrom check r n s) := .checked hc ((Calm.setX s n _).body p)

theorem Ends.pushFrom {p : Bool} {s : State} {check : Except Abort Unit} (hc : Looks s check) {r : Special} {n : Reg} :
    Ends p s (pushFrom check r n s) :=
  .finish (hc.bind fun _ _ => (answers_pushAt s n _ _).after (.refl s) fun _ h => h.body p)

/-- The body of an instruction that writes a special register: user mode may write `GBR`, `MACH`, `MACL`, `PR`, `FPUL` and
`FPSCR`. -/
theorem body_writeSpecial {p : Bool} (s : State) {r : Special}
    (h : r ∈ [Special.gbr, .mach, .macl, .pr, .fpul, .fpscr] ∨ p = true) {w : Nat} (v : BitVec w) :
    Body p s (s.writeSpecial r v) := by
  rcases h with h | rfl
  · simp only [List.mem_cons, List.not_mem_nil, or_false] at h
    rcases h with rfl | rfl | rfl | rfl | rfl | rfl <;> exact (Calm.registers s ..).body p
  · exact (stays_writeSpecial s r v).body

theorem Ends.copyTo {p : Bool} {s : State} {check : Except Abort Unit} (hc : Looks s check) {r : Special}
    (hr : r ∈ [Special.gbr, .mach, .macl, .pr, .fpul, .fpscr] ∨ p = true) {m : Reg} : Ends p s (copyTo check r m s) :=
  .checked hc (body_writeSpecial s hr _)

theorem Ends.popTo {p : Bool} {s : State} {check : Except Abort Unit} (hc : Looks s check) {r : Special}
    (hr : r ∈ [Special.gbr, .mach, .macl, .pr, .fpul, .fpscr] ∨ p = true) {m : Reg} : Ends p s (popTo check r m s) :=
  .finish (hc.bind fun _ _ => (answers_popAt s m _).bind fun q hq => .ok (hq.trans_body (body_writeSpecial q.2 hr _)))

theorem Ends.modifyByte {p : Bool} {s : State} {f : Byte → Byte} : Ends p s (modifyByte f s) :=
  .finish ((looks_readMem s ..).bind fun _ _ => (answers_store s ..).after (.refl s) fun _ h => h.body p)

/-- A delayed branch outside a delay slot. -/
theorem Ends.branch {p : Bool} {s t : State} (h : Calm s t) {target len : BitVec 64} (hlen : len = 2 ∨ len = 6) {check : Except Abort Unit}
    (hc : Looks s check) : Ends p s (Machine.settle (do check; pure (t.delayTo target len))) :=
  .settle (hc.bind fun _ _ => .ok (.delay (h.body p) target hlen))

theorem Ends.branchIf {p : Bool} {s : State} {taken : Bool} {d : BitVec 8} : Ends p s (branchIf taken d s) := by
  refine .settle ?_
  cases hs : s.slot with
  | some sl => rw [State.requireNoSlot_of_some hs]; exact .raise _ (.refl s)
  | none =>
    rw [State.requireNoSlot_of_none hs]
    cases taken
    · exact .ok (.calm (.refl s))
    · exact .ok (.jump ((Calm.refl s).body p) _)

/-- An FPU instruction with one operand field to check, in a calculation mode. -/
theorem Ends.fpOne {p : Bool} {s : State} {n : FReg} {body : FpMode → Except Abort State}
    (h : ∀ md, Answers s (Calm s) (body md)) :
    Ends p s (Machine.finish (do
      s.requireFpuGroup
      let md ← s.requireFpMode
      requireOperand md n
      body md)) :=
  .finish ((looks_requireFpuGroup s).bind fun _ _ => (looks_requireFpMode s).bind fun md _ =>
    (looks_requireOperand s md n).bind fun _ _ => (h md).after (.refl s) fun _ h => h.body p)

theorem Ends.fpArith {p : Bool} {s : State} {m n : FReg}
    {op : (f : FpFormat) → BitVec 2 → Bool → BitVec f.width → BitVec f.width → BitVec f.width} : Ends p s (fpArith op m n s) :=
  .finish ((looks_requireFpuGroup s).bind fun _ _ => (looks_requireFpMode s).bind fun md _ =>
    (looks_requireOperand s md m).bind fun _ _ => (looks_requireOperand s md n).bind fun _ _ => .ok ((Calm.fvSet s md n _).body p))

theorem Ends.fpCompare {p : Bool} {s : State} {m n : FReg} {op : (f : FpFormat) → Bool → BitVec f.width → BitVec f.width → Bool} :
    Ends p s (fpCompare op m n s) :=
  .finish ((looks_requireFpuGroup s).bind fun _ _ => (looks_requireFpMode s).bind fun md _ =>
    (looks_requireOperand s md m).bind fun _ _ => (looks_requireOperand s md n).bind fun _ _ =>
      .ok (((Calm.refl s).body p).putT _))

theorem Ends.fpSign {p : Bool} {s : State} {f : Bool → Bool} {n : FReg} : Ends p s (fpSign f n s) :=
  .fpOne fun md => .ok (.mapSign s f md n)

theorem Ends.fpConstant {p : Bool} {s : State} {a : BitVec 32} {b : BitVec 64} {n : FReg} : Ends p s (fpConstant a b n s) := by
  refine .finish ((looks_requireFpuGroup s).bind fun _ _ => (looks_requireFpMode s).bind fun md _ => ?_)
  cases md
  · exact .ok ((Calm.registers s ..).body p)
  · exact .refuse (by decide)
  · exact .ok ((Calm.registers s ..).body p)

theorem Ends.fpLoadFrom {p : Bool} {s : State} {a : BitVec 64} {n : FReg} : Ends p s (fpLoadFrom a n s) :=
  .finish ((looks_requireFpuGroup s).bind fun _ _ => (looks_requireTransfer s n).bind fun t _ =>
    (looks_fpLoad s t a).bind fun _ _ => .ok ((Calm.fpPlace s t n _).body p))

theorem Ends.fpStoreTo {p : Bool} {s : State} {a : BitVec 64} {m : FReg} : Ends p s (fpStoreTo a m s) :=
  .finish ((looks_requireFpuGroup s).bind fun _ _ => (looks_requireTransfer s m).bind fun t _ =>
    (answers_fpStore s t a m).after (.refl s) fun _ h => h.body p)

end Sys2Proof.Machine
end

section
/-!
PROOFS. The instructions one by one: what each can answer, by its meaning (40 to 49), with the rows of the default privileged set
(60 R531).
-/

namespace Sys2Proof.Machine

/-- The rows of the default privileged set (60 R531). -/
theorem isIn_conventionalPrivileged (n : Reg) (b : BankReg) :
    ∀ i ∈ [Instr.stcSr n, .stcVbr n, .stcSsr n, .stcSpc n, .stcDbr n, .stcBank b n, .stcSrPush n, .stcVbrPush n, .stcSsrPush n,
      .stcSpcPush n, .stcDbrPush n, .stcBankPush b n, .ldcSr n, .ldcVbr n, .ldcSsr n, .ldcSpc n, .ldcDbr n, .ldcBank n b,
      .ldcSrPop n, .ldcVbrPop n, .ldcSsrPop n, .ldcSpcPop n, .ldcDbrPop n, .ldcBankPop n b, .rte, .sleep, .flushtlb, .invtlb],
      isIn Config.conventionalPrivileged i = true := by
  revert n b
  decide

/-- The privilege check of a row. -/
theorem looks_requirePrivilege (s : State) (i : Instr) : Looks s (s.requirePrivilege i) := looks_require s ..

/-- A row of the default privileged set. -/
theorem isIn_conventional {i : Instr} (n : Reg) (b : BankReg)
    (h : i ∈ [Instr.stcSr n, .stcVbr n, .stcSsr n, .stcSpc n, .stcDbr n, .stcBank b n, .stcSrPush n, .stcVbrPush n, .stcSsrPush n,
      .stcSpcPush n, .stcDbrPush n, .stcBankPush b n, .ldcSr n, .ldcVbr n, .ldcSsr n, .ldcSpc n, .ldcDbr n, .ldcBank n b,
      .ldcSrPop n, .ldcVbrPop n, .ldcSsrPop n, .ldcSpcPop n, .ldcDbrPop n, .ldcBankPop n b, .rte, .sleep, .flushtlb, .invtlb] := by
      simp) : isIn Config.conventionalPrivileged i = true := isIn_conventionalPrivileged n b i h

/-! The instructions that are not one of the shared meanings. -/

theorem ends_casL (p : Bool) (s : State) (m n : Reg) : Ends p s (exec (.casL m n) s) := by
  refine .finish ((looks_readMem s ..).bind fun old _ => ?_)
  have hend {t : State} (ht : Calm s t) (b : Bool) : Body p s ((t.setX n (old.signExtend s.W)).putT b) :=
    ((ht.trans (.setX t n _)).body p).putT b
  dsimp only
  split
  · exact (answers_store s ..).bind fun _ ht => .ok (hend ht _)
  · exact .ok (hend (.refl s) _)

theorem ends_tasB (p : Bool) (s : State) (m : Reg) : Ends p s (exec (.tasB m) s) :=
  .finish ((looks_readMem s ..).bind fun _ _ => (answers_store s ..).bind fun _ h => .ok ((h.body p).putT _))

theorem ends_tstB (p : Bool) (s : State) (imm : BitVec 8) : Ends p s (exec (.tstB imm) s) :=
  .finish ((looks_readMem s ..).bind fun _ _ => .ok (((Calm.refl s).body p).putT _))

/-- The two writes that end a multiply-accumulate. -/
theorem answers_accumulate (p : Bool) (s : State) (m n : Reg) (count : Nat) (r : Int → BitVec 32 × BitVec 32) :
    Answers s (Body p s) (do
      let (q, s1) ← s.macOperands m n count
      pure ((s1.writeSpecial .mach (r q).1).writeSpecial .macl (r q).2)) :=
  (answers_macOperands s m n count).bind fun q hq =>
    .ok ((hq.trans ((Calm.registers q.2 ..).trans (.registers ..))).body p)

theorem ends_macL (p : Bool) (s : State) (m n : Reg) : Ends p s (exec (.macL m n) s) :=
  .finish ((looks_demand s _ (by decide)).bind fun _ _ => answers_accumulate p s m n 4 fun q =>
    let r := accumulateLong s.satur (s.mach.setWidth 32 ++ s.macl.setWidth 32) q
    (r.extractLsb' 32 32, r.extractLsb' 0 32))

theorem ends_macWq (p : Bool) (s : State) (m n : Reg) : Ends p s (exec (.macWq m n) s) :=
  .finish ((looks_demand s _ (by decide)).bind fun _ _ => answers_accumulate p s m n 2 fun q =>
    accumulateWord s.satur (s.mach.setWidth 32) (s.macl.setWidth 32) q)

theorem ends_movLqLoadPc (p : Bool) (s : State) (d : BitVec 8) (n : Reg) : Ends p s (exec (.movLqLoadPc d n) s) :=
  .finish ((looks_require s ..).bind fun _ _ => (looks_loadPc s _).bind fun _ _ => .ok ((Calm.setX s n _).body p))

theorem ends_ldcBankPop (s : State) (m : Reg) (n : BankReg) : Ends true s (exec (.ldcBankPop m n) s) :=
  .finish ((looks_requirePrivilege s _).bind fun _ _ => (answers_popAt s m _).bind fun q hq =>
    .ok (hq.trans_body (stays_setXOther q.2 n _).body))

theorem stays_asleep (s : State) : Stays s { s with asleep := true } := ⟨rfl, rfl, rfl, rfl, id, id, id⟩

theorem ends_rte (s : State) : Ends true s (exec .rte s) :=
  .settle ((looks_requirePrivilege s _).bind fun _ _ => (looks_require s ..).bind fun _ _ =>
    .ok (.delay (stays_writeSpecial s .sr _).body _ (.inl rfl)))

theorem ends_bswapQ (p : Bool) (s : State) (n : Reg) : Ends p s (exec (.bswapQ n) s) := by
  refine .calm ?_
  split
  · exact .setX s n _
  · exact .putReg s n _ _

theorem ends_swapL (p : Bool) (s : State) (n : Reg) : Ends p s (exec (.swapL n) s) := by
  refine .calm ?_
  split
  · exact .setX s n _
  · exact .putReg s n _ _

theorem ends_trapa (p : Bool) (s : State) (imm : BitVec 8) : Ends p s (exec (.trapa imm) s) :=
  .settle ((looks_require s ..).bind fun _ _ => .raise _ (.refl s))

/-- A machine without fat loads gives their checks no way to pass. -/
theorem answers_requireFatLoad_absent {s : State} (h : s.params.hasFatLoad = false) :
    Answers s (fun _ => False) s.requireFatLoad :=
  (looks_require s ..).bind fun _ _ => by rw [h]; exact .refuse (by decide)

theorem ends_fatPrefix (p : Bool) (s : State) : Ends p s (fatPrefix s) := by
  unfold fatPrefix
  split
  case isTrue => exact .illegal
  case isFalse h => exact .settle ((answers_requireFatLoad_absent (by simpa using h)).bind fun _ h => h.elim)

theorem ends_fmovPop (p : Bool) (s : State) (m : Reg) (n : FReg) : Ends p s (exec (.fmovPop m n) s) :=
  .finish ((looks_requireFpuGroup s).bind fun _ _ => (looks_requireTransfer s n).bind fun t _ =>
    (looks_fpLoad s t _).bind fun _ _ => .ok (((Calm.setX s m _).trans (.fpPlace _ t n _)).body p))

theorem ends_fmovPush (p : Bool) (s : State) (m : FReg) (n : Reg) : Ends p s (exec (.fmovPush m n) s) :=
  .finish ((looks_requireFpuGroup s).bind fun _ _ => (looks_requireTransfer s m).bind fun t _ =>
    (answers_fpStore s t _ m).bind fun _ h => .ok ((h.trans (.setX _ n _)).body p))

theorem ends_fmov (p : Bool) (s : State) (m n : FReg) : Ends p s (exec (.fmov m n) s) := by
  refine .finish ((looks_requireFpuGroup s).bind fun _ _ => ?_)
  split
  · exact .ok ((Calm.registers s ..).body p)
  split
  · exact (looks_demand s _ (by decide)).bind fun _ _ => .ok ((Calm.registers s ..).body p)
  · exact .ok ((Calm.registers s ..).body p)

theorem ends_fsts (p : Bool) (s : State) (n : FReg) : Ends p s (exec (.fsts n) s) := by
  refine .finish ((looks_requireFpuGroup s).bind fun _ _ => ?_)
  split
  · split <;> exact .ok ((Calm.registers s ..).body p)
  · exact .ok ((Calm.registers s ..).body p)

theorem ends_flds (p : Bool) (s : State) (m : FReg) : Ends p s (exec (.flds m) s) := by
  refine .finish ((looks_requireFpuGroup s).bind fun _ _ => ?_)
  split <;> exact .ok ((Calm.registers s ..).body p)

theorem ends_fcnvsd (p : Bool) (s : State) (n : FReg) : Ends p s (exec (.fcnvsd n) s) := by
  refine .fpOne fun md => ?_
  cases md
  · exact .refuse (by decide)
  · exact .ok (.fvSet s .split n _)
  · exact .ok (.fvSet s .double n _)

theorem ends_fcnvds (p : Bool) (s : State) (m : FReg) : Ends p s (exec (.fcnvds m) s) := by
  refine .fpOne fun md => ?_
  cases md
  · exact .refuse (by decide)
  · exact .ok (.registers s ..)
  · exact .ok (.registers s ..)

theorem ends_fmac (p : Bool) (s : State) (m n : FReg) : Ends p s (exec (.fmac m n) s) :=
  .finish ((looks_requireFpuGroup s).bind fun _ _ => (looks_requireFpMode s).bind fun md _ =>
    (looks_demand s _ (by decide)).bind fun _ _ => .ok ((Calm.fvSet s md n _).body p))

/-- Everything that an instruction can answer; those of the default privileged set are the privileged ones. -/
theorem ends_exec (s : State) : ∀ i : Instr, Ends (isIn Config.conventionalPrivileged i) s (exec i s)
  -- Registers and flags.
  | .add .. | .addImm .. | .sub .. | .neg .. | .and .. | .xor .. | .or .. | .not .. | .andImm .. | .xorImm .. | .orImm .. | .mov ..
  | .movImm .. | .ldsh8 .. | .movt .. | .shll2 .. | .shll8 .. | .shll16 .. | .shlr2 .. | .shlr8 .. | .shlr16 .. | .shad .. | .shld ..
  | .extuL .. | .extsL .. | .swapB .. | .swapW .. | .xtrct .. | .extuB .. | .extsB .. | .extuW .. | .extsW .. => .setX
  | .addc .. | .addv .. | .subc .. | .subv .. | .negc .. | .dt .. | .shll .. | .shal .. | .shlr .. | .shar .. | .rotl .. | .rotcl ..
  | .rotr .. | .rotcr .. => .setXT
  | .cmpeq .. | .cmphs .. | .cmpge .. | .cmphi .. | .cmpgt .. | .cmpstr .. | .cmppz .. | .cmppl .. | .cmpeqImm .. | .tst .. | .tstImm ..
  | .clrt | .sett => .putT
  | .clrs | .sets => .advance (((Calm.refl s).body _).putSatur _) 2
  | .clrdq | .setdq => .advance (((Calm.refl s).body _).putDQ _) 2
  | .div0s .. => .advance (((((Calm.refl s).body _).putQ _).putM _).putT _) 2
  | .div0u => .advance (((((Calm.refl s).body _).putM _).putQ _).putT _) 2
  | .div1 _ n => .advance ((((Calm.setX s n _).body _).putQ _).putT _) 2
  | .bswapL n => .calm (.putReg s n _ _)
  | .bswapQ n => ends_bswapQ _ s n
  | .swapL n => ends_swapL _ s n
  | .nop | .pref _ => .calm (.refl s)
  -- Products.
  | .mulLq .. | .muluWl .. | .mulsWl .. | .dmuluLq .. | .dmulsLq .. | .clrmac => .calm (.registers s ..)
  | .macL m n => ends_macL _ s m n
  | .macWq m n => ends_macWq _ s m n
  -- Memory.
  | .movBLoadIdx .. | .movWqLoadIdx .. | .movLLoadIdx .. | .movLLoadDisp .. | .movBLoad .. | .movWqLoad .. | .movLLoad ..
  | .movBLoadR0Disp .. | .movWqLoadR0Disp .. | .movWLoadR0 .. | .movWqLoadDisp .. | .movWLoad .. | .movBLoadGbr .. | .movWqLoadGbr ..
  | .movLLoadGbr .. => .loadInto
  | .movBPop .. | .movWqPop .. | .movLPop .. => .popInto
  | .movcaL .. | .movBStoreIdx .. | .movWqStoreIdx .. | .movLStoreIdx .. | .movLStoreDisp .. | .movBStore .. | .movWqStore ..
  | .movLStore .. | .movBStoreR0Disp .. | .movWqStoreR0Disp .. | .movWStoreR0 .. | .movBStoreGbr .. | .movWqStoreGbr ..
  | .movLStoreGbr .. => .storeAt
  | .movBPush .. | .movWqPush .. | .movLPush .. => .pushAt
  | .andB .. | .xorB .. | .orB .. => .modifyByte
  | .tstB imm => ends_tstB _ s imm
  | .tasB m => ends_tasB _ s m
  | .casL m n => ends_casL _ s m n
  | .mova _ => .checked (looks_require s ..) ((Calm.setX s 0 _).body _)
  | .movLqLoadPc d n => ends_movLqLoadPc _ s d n
  -- Special registers.
  | .stcGbr .. | .stsMach .. | .stsMacl .. | .stsPr .. => .copyFrom (looks_ok s ())
  | .stsFpul .. | .stsFpscr .. | .stcSr .. | .stcVbr .. | .stcSsr .. | .stcSpc .. | .stcDbr .. => .copyFrom (looks_require s ..)
  | .stcBank _ n => .checked (looks_require s ..) ((Calm.setX s n _).body _)
  | .stcGbrPush .. | .stsMachPush .. | .stsMaclPush .. | .stsPrPush .. => .pushFrom (looks_ok s ())
  | .stsFpulPush .. | .stsFpscrPush .. | .stcSrPush .. | .stcVbrPush .. | .stcSsrPush .. | .stcSpcPush .. | .stcDbrPush .. =>
    .pushFrom (looks_require s ..)
  | .stcBankPush .. => .finish ((looks_require s ..).bind fun _ _ => (answers_pushAt s ..).after (.refl s) fun _ h => h.body _)
  | .ldcGbr .. | .ldsMach .. | .ldsMacl .. | .ldsPr .. => .copyTo (looks_ok s ()) (.inl (by decide))
  | .ldsFpul .. | .ldsFpscr .. => .copyTo (looks_require s ..) (.inl (by decide))
  | .ldcSr m | .ldcVbr m | .ldcSsr m | .ldcSpc m | .ldcDbr m => .copyTo (looks_require s ..) (.inr (isIn_conventional m 0))
  | .ldcGbrPop .. | .ldsMachPop .. | .ldsMaclPop .. | .ldsPrPop .. => .popTo (looks_ok s ()) (.inl (by decide))
  | .ldsFpulPop .. | .ldsFpscrPop .. => .popTo (looks_require s ..) (.inl (by decide))
  | .ldcSrPop m | .ldcVbrPop m | .ldcSsrPop m | .ldcSpcPop m | .ldcDbrPop m =>
    .popTo (looks_require s ..) (.inr (isIn_conventional m 0))
  | .ldcBank m n => isIn_conventional (i := .ldcBank m n) m n ▸ .checked (looks_require s ..) (stays_setXOther s n _).body
  | .ldcBankPop m n => isIn_conventional (i := .ldcBankPop m n) m n ▸ ends_ldcBankPop s m n
  | .flushtlb | .invtlb => .checked (looks_require s ..) ((Calm.forgetTags s).body _)
  | .sleep => .checked (looks_require s ..) (stays_asleep s).body
  | .rte => ends_rte s
  -- Branches.
  | .bt .. | .bf .. => .branchIf
  | .bts .. | .bfs .. | .bra .. | .bsaf .. | .jmp .. | .rts => .branch (.refl s) (.inl rfl) (looks_require s ..)
  | .bsr .. | .bsrf .. | .jsr .. => .branch (.registers s ..) (.inl rfl) (looks_require s ..)
  -- Fat loads.
  | .ldfatL | .ldfatQ => ends_fatPrefix _ s
  | .ldfatMov24 _ n | .ldfatMov40 _ n | .ldfatMov56 _ n => .checked (looks_requireFatLoad s) ((Calm.setX s n _).body _) _
  | .ldfatBra .. => .branch (.refl s) (.inr rfl) (looks_requireFatLoad s)
  | .ldfatBsr .. => .branch (.registers s ..) (.inr rfl) (looks_requireFatLoad s)
  -- The FPU.
  | .fadd .. | .fsub .. | .fmul .. | .fdiv .. => .fpArith
  | .fcmpeq .. | .fcmpgt .. => .fpCompare
  | .fneg .. | .fabs .. => .fpSign
  | .fldi0 .. | .fldi1 .. => .fpConstant
  | .fmovLoadIdx .. | .fmovLoad .. => .fpLoadFrom
  | .fmovStoreIdx .. | .fmovStore .. => .fpStoreTo
  | .fmovPop m n => ends_fmovPop _ s m n
  | .fmovPush m n => ends_fmovPush _ s m n
  | .fmov m n => ends_fmov _ s m n
  | .fsts n => ends_fsts _ s n
  | .flds m => ends_flds _ s m
  | .float n | .fsqrt n => .fpOne fun md => .ok (.fvSet s md n _)
  | .ftrc _ => .fpOne fun _ => .ok (.registers s ..)
  | .fcnvsd n => ends_fcnvsd _ s n
  | .fcnvds m => ends_fcnvds _ s m
  | .fschg => .finish ((looks_requireFpuGroup s).bind fun _ _ => .ok ((Calm.registers s ..).body _))
  | .fmac m n => ends_fmac _ s m n
  -- Traps.
  | .brk => .trap _ (.refl s)
  | .trapa imm => ends_trapa _ s imm
  | .fatBsr44 _ | .fatBsr60 _ | .ocbi _ | .ocbp _ | .ocbwb _ | .movrt _ | .stcTbr _ | .rtvN _ | .mulr _ | .movmuPush _ | .clipuB _
  | .clipsB _ | .stbank _ | .movmlPush _ | .divu _ | .movmuPop _ | .clipuW _ | .clipsW _ | .ldbank _ | .movmlPop _ | .ldcTbr _ | .jsrN _
  | .movBR0Post _ | .movWR0Post _ | .movLR0Post _ | .movBR0Pre _ | .movWR0Pre _ | .movLR0Pre _ | .jsrN8 _ | .bset _ | .bst _ | .ftrv _
  | .fipr _ | .ldtlb | .nott | .resbank | .rtsN | .frchg | .unused _ | .reserved _ | .unlisted _ => .illegal

end Sys2Proof.Machine
end

section
/-!
PROOFS. What every step keeps: the invariant, the parameters, and the confines of user mode (10, 20, 60 R508, R516, R531).
-/

namespace Sys2Proof.Machine

/-! One step. -/

theorem Fetched.calm {s t : State} (h : Fetched s t) : Calm s t := by
  obtain ⟨hsame, htags, heven⟩ := h
  rw [hsame] at *
  exact ⟨⟨rfl, rfl, rfl, rfl, id, htags, heven⟩, rfl, rfl, rfl, rfl, rfl, rfl, fun _ => rfl⟩

theorem looks_fetchWord (s : State) (a : BitVec 64) : Looks s (s.fetchWord a) := by
  refine (looks_checkAccess s ..).bind fun _ _ => ?_
  split
  · exact .fault _
  split
  · exact .fault _
  · exact .ok trivial

theorem answers_fetchWord (s : State) (a : BitVec 64) : Answers s (fun p => Calm s p.2) (s.fetchWord a) := by
  have hlooks := looks_fetchWord s a
  rcases s.fetchWord_cases a with ⟨t, h, ht⟩ | h | ⟨f, h⟩ | ⟨r, h⟩ <;> rw [h] at hlooks ⊢
  · exact .ok ht.calm
  · exact .raise _ (.refl s)
  · exact .fault f
  · cases hlooks with
    | refuse hr => exact .refuse hr

theorem answers_fetchMore (count : Nat) (offset : BitVec 64) (s : State) :
    Answers s (fun p => Calm s p.2) (State.fetchMore count offset s) := by
  induction count generalizing offset s with
  | zero => exact .ok (.refl s)
  | succ count ih =>
    exact (answers_fetchWord s _).bind fun p hp =>
      ((ih (offset + 2) p.2).after hp fun _ hq => hp.trans hq).bind fun _ hq => .ok hq

theorem answers_fetchWords (s : State) : Answers s (fun p => Calm s p.2) s.fetchWords := by
  refine (answers_fetchWord s _).bind fun p hp => ?_
  dsimp only
  split
  · exact ((answers_fetchWord p.2 _).after hp fun _ hq => hp.trans hq).bind fun q hq =>
      ((answers_fetchMore _ _ q.2).after hq fun _ hr => hq.trans hr).bind fun _ hr => .ok hr
  · exact .ok hp

/-- The instruction that the mode lets run is not privileged in user mode. -/
theorem State.Guarded.unprivileged {s : State} {i : Instr} (hg : s.Guarded) (hmd : s.md = false) (hrun : s.mayRun i = true) :
    isIn Config.conventionalPrivileged i = false := by
  rw [State.mayRun_of_user hmd, Bool.not_eq_true'] at hrun
  cases hi : isIn Config.conventionalPrivileged i
  · rfl
  · rw [hg i hi] at hrun
    cases hrun

/-- The instruction at the program counter ends as its own row says, and what is privileged does not run in user mode. -/
theorem ends_runInstr (s : State) : ∃ p : Bool, (s.md = false → s.Guarded → p = false) ∧ Ends p s s.runInstr := by
  have hfetch := answers_fetchWords s
  unfold State.runInstr
  rcases s.fetchWords_cases with ⟨ws, t, i, rest, h, hdecode, _⟩ | ⟨c, t, h, _⟩ | ⟨f, h⟩ | ⟨r, h⟩ <;> rw [h] at hfetch ⊢
  · cases hfetch with
    | ok ht =>
      simp only [hdecode]
      have hmd : t.md = s.md := by rw [State.md, State.md, ht.sr]
      split
      case isTrue hrun =>
        refine ⟨_, fun hs hg => ?_, (ends_exec t i).after ht⟩
        have hgt : t.Guarded := fun j hj => by rw [ht.params]; exact hg j hj
        exact hgt.unprivileged (hmd.trans hs) hrun
      case isFalse => exact ⟨false, fun _ _ => rfl, .trap _ ht⟩
  · cases hfetch with
    | raise c ht => exact ⟨false, fun _ _ => rfl, .trap _ ht⟩
  · exact ⟨false, fun _ _ => rfl, .fault f⟩
  · cases hfetch with
    | refuse hr => exact ⟨false, fun _ _ => rfl, .refuse hr⟩

/-- Everything that a step can do. -/
theorem step_cases (s : State) :
    (∃ r, r ≠ .truncatedFetch ∧ step s = .refused r) ∨ (s.final = true ∧ step s = .next s) ∨
    (s.final = false ∧ s.asleep = true ∧ step s = .next s.passBoundary) ∨
    (s.final = false ∧ ∃ p : Bool, (s.md = false → s.Guarded → p = false) ∧ Ends p s.passBoundary (step s)) := by
  unfold step
  by_cases hmmu : s.params.hasMMU = true
  · exact .inl ⟨.mmu, by decide, if_pos hmmu⟩
  rw [if_neg hmmu]
  by_cases hfinal : s.final = true
  · exact .inr (.inl ⟨hfinal, if_pos hfinal⟩)
  rw [if_neg hfinal]
  rw [Bool.not_eq_true] at hfinal
  cases hirq : s.accepted with
  | some r => exact .inr (.inr (.inr ⟨hfinal, false, fun _ _ => rfl, .trap _ (.refl _)⟩))
  | none =>
    dsimp only
    by_cases hsleep : s.asleep = true
    · exact .inr (.inr (.inl ⟨hfinal, hsleep, if_pos hsleep⟩))
    rw [if_neg hsleep]
    by_cases hmode : s.modeAllowed = true
    · rw [if_pos hmode]
      exact .inr (.inr (.inr ⟨hfinal, ends_runInstr s.passBoundary⟩))
    · exact .inl ⟨.aqWithoutDq, by decide, if_neg hmode⟩

/-- The next state of trap entry: the saved context at a normalised address. -/
theorem trapEntry_next {c : Cause} {s t : State} (h : trapEntry c s = .next t) :
    ∃ a, t = { s.saveContext c with pc := (s.saveContext c).ea a } := by
  rcases trapEntry_cases c s with ⟨_, hc⟩ | hc | hc | hc | hc <;> rw [hc] at h
  · exact ⟨_, (Host.Outcome.next.inj h).symm⟩
  all_goals cases h

/-- The next states of an instruction. -/
theorem Ends.next_cases {p : Bool} {s u : State} (h : Ends p s (.next u)) :
    (∃ t len, Body p s t ∧ u = t.advance len) ∨
    (∃ t target len, Body p s t ∧ (len = 2 ∨ len = 6) ∧ u = t.delayTo target len) ∨
    (∃ t target, Body p s t ∧ u = { t with pc := t.ea target, slot := none }) ∨
    (∃ c t a, Calm s t ∧ u = { t.saveContext c with pc := (t.saveContext c).ea a }) := by
  generalize ho : Host.Outcome.next u = o at h
  cases h with
  | advance hb len => exact .inl ⟨_, len, hb, Host.Outcome.next.inj ho⟩
  | delay hb target hlen => exact .inr (.inl ⟨_, target, _, hb, hlen, Host.Outcome.next.inj ho⟩)
  | jump hb target => exact .inr (.inr (.inl ⟨_, target, hb, Host.Outcome.next.inj ho⟩))
  | @trap c t hc =>
    obtain ⟨a, ha⟩ := trapEntry_next ho.symm
    exact .inr (.inr (.inr ⟨c, t, a, hc, ha⟩))
  | fault f => cases ho
  | refuse hr => cases ho

/-! The invariant. -/

/-- The invariant after a body, wherever the program counter then goes. -/
theorem State.Inv.after {s t u : State} (hs : s.Inv) (h : Stays s t) (hmem : u.mem = t.mem) (htags : u.xtag = t.xtag)
    (hpc : u.holdsPc) (hslot : u.holdsSlot) : u.Inv where
  mem := hmem ▸ h.mem hs.mem
  tags := htags ▸ h.tags hs.tags
  evenTags := htags ▸ h.even hs.evenTags
  pc := hpc
  slot := hslot

theorem holdsSlot_of_none {s : State} (h : s.slot = none) : s.holdsSlot := fun sl hsl => by rw [h] at hsl; cases hsl

theorem holdsPc_advance (s : State) (len : BitVec 64) : (s.advance len).holdsPc := by
  unfold State.holdsPc State.advance
  cases s.slot with
  | none => exact s.ea_ea _
  | some sl => exact s.ea_ea _

theorem Ends.inv {p : Bool} {s u : State} (hs : s.Inv) (h : Ends p s (.next u)) : u.Inv := by
  rcases h.next_cases with ⟨t, len, hb, rfl⟩ | ⟨t, target, len, hb, hlen, rfl⟩ | ⟨t, target, hb, rfl⟩ | ⟨c, t, a, hc, rfl⟩
  · exact hs.after hb.toStays rfl rfl (holdsPc_advance t len) (holdsSlot_of_none rfl)
  · refine hs.after hb.toStays rfl rfl (t.ea_ea _) fun sl hsl => ?_
    cases hsl
    rcases hlen with rfl | rfl
    · exact .inl rfl
    · exact .inr rfl
  · exact hs.after hb.toStays rfl rfl (t.ea_ea _) (holdsSlot_of_none rfl)
  · exact hs.after hc.toStays rfl rfl ((t.saveContext c).ea_ea _) (holdsSlot_of_none rfl)

/-- The boundary is in none of the invariant's fields. -/
theorem State.Inv.passBoundary {s : State} (hs : s.Inv) : s.passBoundary.Inv := ⟨hs.mem, hs.tags, hs.evenTags, hs.pc, hs.slot⟩

/-- Settles O4: the body of every instruction keeps the canonical forms, and every end of an instruction leaves a normalised program
counter and no slot but that of a delayed branch. -/
theorem stepKeepsInvariant : Obligations.StepKeepsInvariant := by
  intro s t hs h
  rcases step_cases s with ⟨r, _, hr⟩ | ⟨_, hn⟩ | ⟨_, _, hn⟩ | ⟨_, p, _, he⟩
  · rw [hr] at h
    cases h
  · rw [hn] at h
    cases h
    exact hs
  · rw [hn] at h
    cases h
    exact hs.passBoundary
  · rw [h] at he
    exact he.inv hs.passBoundary

/-! The parameters and the interrupt input. -/

theorem Ends.params {p : Bool} {s u : State} (h : Ends p s (.next u)) : u.params = s.params ∧ u.irqInput = s.irqInput := by
  rcases h.next_cases with ⟨t, len, hb, rfl⟩ | ⟨t, target, len, hb, _, rfl⟩ | ⟨t, target, hb, rfl⟩ | ⟨c, t, a, hc, rfl⟩
  · exact ⟨hb.params, hb.irqInput⟩
  · exact ⟨hb.params, hb.irqInput⟩
  · exact ⟨hb.params, hb.irqInput⟩
  · exact ⟨hc.params, hc.irqInput⟩

theorem trapEntry_ne_truncatedFetch (c : Cause) (s : State) : trapEntry c s ≠ .refused .truncatedFetch := by
  rcases trapEntry_cases c s with ⟨_, hc⟩ | hc | hc | hc | hc <;> rw [hc] <;> simp

theorem Ends.ne_truncatedFetch {p : Bool} {s : State} {o : Host.Outcome State Fault Refusal} (h : Ends p s o) :
    o ≠ .refused .truncatedFetch := by
  cases h with
  | trap c _ => exact trapEntry_ne_truncatedFetch c _
  | refuse hr => simpa using hr
  | advance | delay | jump | fault => simp

/-- Settles O13: no body and no end of an instruction writes the parameters or the interrupt input, of which the boundary takes one
entry; and the words that a fetch brings in always decode. -/
theorem stepKeepsParameters : Obligations.StepKeepsParameters := by
  refine ⟨fun s t h => ?_, fun s h => ?_⟩
  · rcases step_cases s with ⟨r, _, hr⟩ | ⟨hf, hn⟩ | ⟨hf, _, hn⟩ | ⟨hf, p, _, he⟩
    · rw [hr] at h
      cases h
    · rw [hn] at h
      cases h
      simp [hf]
    · rw [hn] at h
      cases h
      exact ⟨rfl, fun _ => rfl, by simp [hf]⟩
    · rw [h] at he
      exact ⟨he.params.1, fun _ => he.params.2, by simp [hf]⟩
  · rcases step_cases s with ⟨r, hne, hr⟩ | ⟨_, hn⟩ | ⟨_, _, hn⟩ | ⟨_, p, _, he⟩
    · rw [hr] at h
      exact hne (Host.Outcome.refused.inj h)
    · rw [hn] at h
      cases h
    · rw [hn] at h
      cases h
    · exact he.ne_truncatedFetch h

/-! User mode. -/

/-- What a step in user mode that enters no trap leaves. -/
structure StaysUser (s t : State) : Prop extends Confined s t where
  /-- The parameters are unchanged. -/
  params : t.params = s.params

theorem StaysUser.refl (s : State) : StaysUser s s := ⟨(Calm.refl s).confined, rfl⟩

theorem StaysUser.md {s t : State} (h : StaysUser s t) : t.md = s.md := h.status 30 (by decide)

theorem StaysUser.bankBActive {s t : State} (h : StaysUser s t)
    (hbank : ∀ v w : BitVec 64, (∀ k, k ∉ [0, 1, 8, 9, 20] → v.getLsbD k = w.getLsbD k) →
      selectsBankB s.params.bankSel v = selectsBankB s.params.bankSel w) : t.bankBActive = s.bankBActive := by
  rw [State.bankBActive, State.bankBActive, h.params]
  exact hbank _ _ h.status

/-- The status that trap entry leaves. -/
theorem State.getLsbD_sr_saveContext (s : State) (c : Cause) (k : Nat) :
    (s.saveContext c).sr.getLsbD k =
      if k = 30 then true else if k = 28 then s.bl || s.params.entrySetsBL else s.sr.getLsbD k := by
  have hsr : (s.saveContext c).sr =
      if s.params.entrySetsBL then putBit (putBit s.sr 30 true) 28 true else putBit s.sr 30 true := rfl
  cases hbl : s.params.entrySetsBL <;>
    simp only [hsr, hbl, getLsbD_putBit, State.bl, if_true, if_false, Bool.false_eq_true, Bool.or_false, Bool.or_true] <;> grind

/-- In user mode an instruction that is not privileged traps or stays confined. -/
theorem Ends.user {s u : State} (h : Ends false s (.next u)) :
    StaysUser s u ∨ ∃ c t a, Calm s t ∧ u = { t.saveContext c with pc := (t.saveContext c).ea a } := by
  have hbody {t : State} (hb : Body false s t) : StaysUser s t := ⟨hb.confined rfl, hb.params⟩
  rcases h.next_cases with ⟨t, len, hb, rfl⟩ | ⟨t, target, len, hb, _, rfl⟩ | ⟨t, target, hb, rfl⟩ | htrap
  · exact .inl { hbody hb with }
  · exact .inl { hbody hb with }
  · exact .inl { hbody hb with }
  · exact .inr htrap

/-- Settles O10: outside the privileged set no body leaves the confines, and the set keeps the other instructions from running. -/
theorem userModeIsConfined : Obligations.UserModeIsConfined := by
  intro s t hmd hguard hawake h
  have hstays (ht : StaysUser s t) := And.intro (ht.md.trans hmd) <| And.intro (ht.asleep.trans hawake) <|
    And.intro ht.vbr <| And.intro ht.ssr <| And.intro ht.spc <| And.intro ht.dbr <| And.intro ht.others <|
    And.intro ht.status ht.bankBActive
  rcases step_cases s with ⟨r, _, hr⟩ | ⟨_, hn⟩ | ⟨_, hsleep, _⟩ | ⟨_, p, hp, he⟩
  · rw [hr] at h
    cases h
  · rw [hn] at h
    cases h
    exact .inr (hstays (.refl s))
  · rw [hawake] at hsleep
    cases hsleep
  · rw [h, hp hmd hguard] at he
    rcases he.user with ht | ⟨c, u, a, hu, rfl⟩
    · exact .inr (hstays { ht with })
    · have hbits (k : Nat) := u.getLsbD_sr_saveContext c k
      refine .inl ⟨hbits 30, rfl, rfl, hu.vbr, hu.dbr, fun k h28 h30 => ?_⟩
      rw [hbits k, if_neg h30, if_neg h28, hu.sr]
      rfl

end Sys2Proof.Machine
end

section
/-!
PROOFS. The decoder and the encoder, one against the other: a row's word decodes to the row, and every word is the word of one row
(30 R140 to R155, 49 R471 to R476).
-/

namespace Sys2Proof

/-! Words made of fields. -/

theorem word4_eq_byte (a b c d : Nibble) : word4 a b c d = a ++ b ++ (c ++ d) := by
  apply BitVec.eq_of_toNat_eq
  rw [toNat_word4]
  simp only [BitVec.toNat_append, Nat.shiftLeft_eq]
  rw [Nat.mul_comm c.toNat, ← Nat.two_pow_add_eq_or_of_lt d.isLt, Nat.mul_comm a.toNat, ← Nat.two_pow_add_eq_or_of_lt b.isLt,
    Nat.mul_comm _ (2 ^ (4 + 4)), ← Nat.two_pow_add_eq_or_of_lt (by have := c.isLt; have := d.isLt; omega)]
  omega

theorem word4_eq_long (a b c d : Nibble) : word4 a b c d = a ++ (b ++ c ++ d) := by
  apply BitVec.eq_of_toNat_eq
  rw [toNat_word4]
  simp only [BitVec.toNat_append, Nat.shiftLeft_eq]
  have hb := b.isLt
  have hc := c.isLt
  have hd := d.isLt
  rw [Nat.mul_comm b.toNat, ← Nat.two_pow_add_eq_or_of_lt hc, Nat.mul_comm _ (2 ^ 4), ← Nat.two_pow_add_eq_or_of_lt hd,
    Nat.mul_comm a.toNat (2 ^ (4 + 4 + 4)), ← Nat.two_pow_add_eq_or_of_lt (by omega)]
  omega

/-- A nibble of a row of the inactive bank: its top bit is 1, the others are the register. -/
theorem bankNibble {c : Nibble} (h : c.msb = true) : 0b1#1 ++ c.setWidth 3 = c := by
  revert c
  decide

theorem byte_nibbles (d : BitVec 8) : d.extractLsb' 4 4 ++ d.extractLsb' 0 4 = d := by
  rw [BitVec.extractLsb'_append_extractLsb'_eq_extractLsb' (by decide)]
  simp

theorem long_nibbles (d : BitVec 12) : d.extractLsb' 8 4 ++ d.extractLsb' 4 4 ++ d.extractLsb' 0 4 = d := by
  rw [BitVec.extractLsb'_append_extractLsb'_eq_extractLsb' (by decide),
    BitVec.extractLsb'_append_extractLsb'_eq_extractLsb' (by decide)]
  simp

/-- A property of nibbles, one by one. -/
theorem forall_nibble {p : Nibble → Prop} (h : ∀ k < 16, p (BitVec.ofNat 4 k)) (c : Nibble) : p c := by
  have hc := h c.toNat c.isLt
  rwa [BitVec.ofNat_toNat, BitVec.setWidth_eq] at hc

/-! The rows of a group. -/

/-- A row of a group: a well-formed instruction with that word. -/
def IsRow (a b c d : Nibble) (i : Instr) : Prop := i.wellFormed = true ∧ encodeWord i = word4 a b c d

theorem isRow_group0 {b c d : Nibble} {i : Instr} (h : decodeGroup0 b c d = some i) : IsRow 0 b c d i := by
  unfold decodeGroup0 at h
  (repeat' split at h) <;> cases h <;> simp [IsRow, Instr.wellFormed, encodeWord, bankNibble, *]

theorem isRow_group2 {b c d : Nibble} {i : Instr} (h : decodeGroup2 b c d = some i) : IsRow 2 b c d i := by
  unfold decodeGroup2 at h
  split at h <;> cases h <;> exact ⟨rfl, rfl⟩

theorem isRow_group3 {b c d : Nibble} {i : Instr} (h : decodeGroup3 b c d = some i) : IsRow 3 b c d i := by
  unfold decodeGroup3 at h
  split at h <;> cases h <;> exact ⟨rfl, rfl⟩

theorem isRow_group4 {b c d : Nibble} {i : Instr} (h : decodeGroup4 b c d = some i) : IsRow 4 b c d i := by
  unfold decodeGroup4 at h
  (repeat' split at h) <;> cases h <;> simp [IsRow, Instr.wellFormed, encodeWord, bankNibble, *]

theorem isRow_group6 {b c d : Nibble} {i : Instr} (h : decodeGroup6 b c d = some i) : IsRow 6 b c d i := by
  unfold decodeGroup6 at h
  split at h <;> cases h <;> exact ⟨rfl, rfl⟩

theorem isRow_group8 {b c d : Nibble} {i : Instr} (h : decodeGroup8 b c d = some i) : IsRow 8 b c d i := by
  unfold decodeGroup8 at h
  (repeat' split at h) <;> cases h <;> simp [IsRow, Instr.wellFormed, encodeWord, word4_eq_byte, *]

theorem isRow_group9 {b c d : Nibble} {i : Instr} (h : decodeGroup9 b c d = some i) : IsRow 9 b c d i := by
  unfold decodeGroup9 at h
  split at h <;> cases h <;> simp [IsRow, Instr.wellFormed, encodeWord, *]

theorem isRow_groupC {b c d : Nibble} {i : Instr} (h : decodeGroupC b c d = some i) : IsRow 12 b c d i := by
  unfold decodeGroupC at h
  split at h <;> cases h <;> exact ⟨rfl, (word4_eq_byte ..).symm⟩

theorem isRow_groupF {b c d : Nibble} {i : Instr} (h : decodeGroupF b c d = some i) : IsRow 15 b c d i := by
  unfold decodeGroupF at h
  (repeat' split at h) <;> cases h <;> simp [IsRow, Instr.wellFormed, encodeWord, *]

theorem isRow_decodeGroup {b c d : Nibble} {i : Instr} :
    ∀ a : Nibble, decodeGroup a b c d = some i → IsRow a b c d i := by
  refine forall_nibble fun k hk h => ?_
  match k, hk, h with
  | 0, _, h => exact isRow_group0 h
  | 1, _, h => cases h; exact ⟨rfl, rfl⟩
  | 2, _, h => exact isRow_group2 h
  | 3, _, h => exact isRow_group3 h
  | 4, _, h => exact isRow_group4 h
  | 5, _, h => cases h; exact ⟨rfl, rfl⟩
  | 6, _, h => exact isRow_group6 h
  | 7, _, h => cases h; exact ⟨rfl, (word4_eq_byte ..).symm⟩
  | 8, _, h => exact isRow_group8 h
  | 9, _, h => exact isRow_group9 h
  | 10, _, h => cases h; exact ⟨rfl, (word4_eq_long ..).symm⟩
  | 11, _, h => cases h; exact ⟨rfl, (word4_eq_long ..).symm⟩
  | 12, _, h => exact isRow_groupC h
  | 13, _, h => cases h; exact ⟨rfl, (word4_eq_byte ..).symm⟩
  | 14, _, h => cases h; exact ⟨rfl, (word4_eq_byte ..).symm⟩
  | 15, _, h => exact isRow_groupF h
  | _ + 16, hk, _ => exact absurd hk (by omega)

end Sys2Proof
end

section
/-!
PROOFS. The words without a row: each is of one kind, reserved, unused or unlisted (30 R150 to R152).
-/

namespace Sys2Proof

/-! The words without a row. -/

theorem toNat_lowByte_word4 (a b c d : Nibble) : (lowByte (word4 a b c d)).toNat = 16 * c.toNat + d.toNat := by
  have hc := c.isLt
  have hd := d.isLt
  rw [lowByte, BitVec.extractLsb'_toNat, toNat_word4, Nat.shiftRight_zero]
  omega

/-- Bytes are compared as numbers. -/
theorem contains_eq_contains_toNat (l : List Byte) (x : Byte) : l.contains x = (l.map BitVec.toNat).contains x.toNat := by
  rw [Bool.eq_iff_iff]
  simp [BitVec.toNat_inj]

/-- Of how many kinds of rows that name no instruction a word is (30 R150 to R152). -/
def emptyKinds (w : InstrWord) : Nat := (reservedWord w).toNat + (unusedWord w).toNat + (unlistedWord w).toNat

theorem emptyKinds_group0_zero : ∀ k < 256,
    ((k % 16 == 0 || k % 16 == 1).toNat + ((unusedLow0.map BitVec.toNat).contains k || k == 0x4B).toNat +
      ((unlistedLow0.map BitVec.toNat).contains k).toNat) =
      (decodeGroup0 0 (BitVec.ofNat 4 (k / 16)) (BitVec.ofNat 4 (k % 16))).isNone.toNat := by
  decide +kernel

theorem emptyKinds_group0_one : ∀ k < 256,
    ((k % 16 == 0 || k % 16 == 1).toNat + ((unusedLow0.map BitVec.toNat).contains k).toNat +
      ((unlistedLow0.map BitVec.toNat).contains k || (fixedLow0.map BitVec.toNat).contains k).toNat) =
      (decodeGroup0 1 (BitVec.ofNat 4 (k / 16)) (BitVec.ofNat 4 (k % 16))).isNone.toNat := by
  decide +kernel

theorem emptyKinds_group4_zero : ∀ k < 256,
    ((unusedLow4.map BitVec.toNat).contains k).toNat + ((unlistedLow4.map BitVec.toNat).contains k).toNat =
      (decodeGroup4 0 (BitVec.ofNat 4 (k / 16)) (BitVec.ofNat 4 (k % 16))).isNone.toNat := by
  decide +kernel

/-- Which rows of group 4 there are does not depend on the register. -/
theorem isNone_decodeGroup4 (b b' c d : Nibble) : (decodeGroup4 b c d).isNone = (decodeGroup4 b' c d).isNone := by
  unfold decodeGroup4
  (repeat' split) <;> rfl

/-- Which rows of group 0 there are depends on no more of the register than whether it is 0. -/
theorem isNone_decodeGroup0 {b b' : Nibble} (hb : b ≠ 0#4) (hb' : b' ≠ 0#4) (c d : Nibble) :
    (decodeGroup0 b c d).isNone = (decodeGroup0 b' c d).isNone := by
  unfold decodeGroup0
  simp only [if_neg hb, if_neg hb']
  (repeat' split) <;> rfl

/-- Two nibbles as the number of their byte. -/
theorem high_of_byte (c d : Nibble) : BitVec.ofNat 4 ((16 * c.toNat + d.toNat) / 16) = c := by
  have hd := d.isLt
  rw [show (16 * c.toNat + d.toNat) / 16 = c.toNat by omega, BitVec.ofNat_toNat, BitVec.setWidth_eq]

theorem low_of_byte (c d : Nibble) : BitVec.ofNat 4 ((16 * c.toNat + d.toNat) % 16) = d := by
  have hd := d.isLt
  rw [show (16 * c.toNat + d.toNat) % 16 = d.toNat by omega, BitVec.ofNat_toNat, BitVec.setWidth_eq]

theorem beq_toNat (d x : Nibble) : (d == x) = (d.toNat == x.toNat) := by
  rw [Bool.eq_iff_iff]
  simp [BitVec.toNat_inj]

theorem emptyKinds_group0 (b c d : Nibble) : emptyKinds (word4 0 b c d) = (decodeGroup0 b c d).isNone.toNat := by
  have hc := c.isLt
  have hd := d.isLt
  have hmod : (16 * c.toNat + d.toNat) % 16 = d.toNat := by omega
  have hbrk : (word4 0 b c d == 0x004B) = (b == 0 && 16 * c.toNat + d.toNat == 0x4B) := by
    have hb := b.isLt
    rw [Bool.eq_iff_iff, beq_iff_eq, ← BitVec.toNat_inj, toNat_word4, Bool.and_eq_true, beq_iff_eq, beq_iff_eq, ← BitVec.toNat_inj]
    simp
    omega
  simp only [emptyKinds, reservedWord, unusedWord, unlistedWord, nibble3_word4, nibble2_word4, nibble0_word4, contains_eq_contains_toNat,
    toNat_lowByte_word4, hbrk]
  by_cases hb : b = 0#4
  · have h := emptyKinds_group0_zero (16 * c.toNat + d.toNat) (by omega)
    rw [high_of_byte, low_of_byte, hmod] at h
    simpa [hb, beq_toNat d] using h
  · have h := emptyKinds_group0_one (16 * c.toNat + d.toNat) (by omega)
    rw [high_of_byte, low_of_byte, hmod, isNone_decodeGroup0 (by decide) hb] at h
    have hb0 : (b == 0#4) = false := by simpa using hb
    have hb1 : (b != 0#4) = true := by simpa using hb
    simpa [hb0, hb1, beq_toNat d] using h

theorem emptyKinds_group4 (b c d : Nibble) : emptyKinds (word4 4 b c d) = (decodeGroup4 b c d).isNone.toNat := by
  have h := emptyKinds_group4_zero (16 * c.toNat + d.toNat) (by have := c.isLt; have := d.isLt; omega)
  rw [high_of_byte, low_of_byte, isNone_decodeGroup4 0 b] at h
  simp only [emptyKinds, reservedWord, unusedWord, unlistedWord, nibble3_word4, nibble0_word4, contains_eq_contains_toNat,
    toNat_lowByte_word4]
  simpa using h

/-- The four blocks reserved for 32-bit operations hold the rows of group 3 that are missing. -/
theorem isNone_decodeGroup3 (b c : Nibble) : ∀ d, (decodeGroup3 b c d).isNone = (d == 1 || d == 9) :=
  forall_nibble fun k hk => by interval_cases k <;> rfl

theorem isNone_decodeGroup2 (b c : Nibble) : ∀ d, (decodeGroup2 b c d).isNone = false :=
  forall_nibble fun k hk => by interval_cases k <;> rfl

theorem isNone_decodeGroup6 (b c : Nibble) : ∀ d, (decodeGroup6 b c d).isNone = false :=
  forall_nibble fun k hk => by interval_cases k <;> rfl

theorem isNone_decodeGroup8 (c d : Nibble) : ∀ b, (decodeGroup8 b c d).isNone = (b == 2 || b == 0xA || b == 0xE) :=
  forall_nibble fun k hk => by
    by_cases hd : d = 0#4 <;> interval_cases k <;> simp [decodeGroup8, hd]

theorem isNone_decodeGroup9 (b c d : Nibble) : (decodeGroup9 b c d).isNone = false := by
  unfold decodeGroup9
  split <;> rfl

theorem isNone_decodeGroupC (c d : Nibble) : ∀ b, (decodeGroupC b c d).isNone = false :=
  forall_nibble fun k hk => by interval_cases k <;> rfl

theorem isNone_decodeGroupF_FD (b : Nibble) : (decodeGroupF b 0xF 0xD).isNone = (b != 0x3 && b != 0xB) := by
  by_cases h3 : b = 3#4
  · rw [h3]; rfl
  by_cases hB : b = 11#4
  · rw [hB]; rfl
  · simp [decodeGroupF, h3, hB]

theorem isNone_decodeGroupF_D (b : Nibble) : ∀ c, (decodeGroupF b c 0xD).isNone =
    (c == 0xC || c == 0xD || (c == 0xF && (b != 0x3 && b != 0xB))) :=
  forall_nibble fun k hk => by
    rcases Nat.lt_or_eq_of_le (Nat.le_of_lt_succ hk) with h | rfl
    · interval_cases k <;> rfl
    · simpa using isNone_decodeGroupF_FD b

theorem isNone_decodeGroupF (b c : Nibble) : ∀ d, (decodeGroupF b c d).isNone =
    ((d == 0xD && (c == 0xC || c == 0xD || (c == 0xF && (b != 0x3 && b != 0xB)))) || d == 0xF) :=
  forall_nibble fun k hk => by
    rcases lt_trichotomy k 13 with h | rfl | h
    · interval_cases k <;> rfl
    · simpa using isNone_decodeGroupF_D b c
    · interval_cases k <;> rfl

/-- The low byte of a word, nibble by nibble. -/
theorem lowByte_word4 (a b c d : Nibble) : lowByte (word4 a b c d) = c ++ d := by
  apply BitVec.eq_of_toNat_eq
  rw [toNat_lowByte_word4, BitVec.toNat_append, Nat.shiftLeft_eq, Nat.mul_comm c.toNat, Nat.two_pow_add_eq_or_of_lt d.isLt]

theorem lowByte_word4_beq (a b c d c' d' : Nibble) : (lowByte (word4 a b c d) == c' ++ d') = (c == c' && d == d') := by
  have hd := d.isLt
  have hd' := d'.isLt
  rw [← lowByte_word4 a b c' d', Bool.eq_iff_iff, beq_iff_eq, Bool.and_eq_true, beq_iff_eq, beq_iff_eq, ← BitVec.toNat_inj,
    ← BitVec.toNat_inj, ← BitVec.toNat_inj, toNat_lowByte_word4, toNat_lowByte_word4]
  omega

theorem emptyKinds_groupF (b c d : Nibble) : emptyKinds (word4 0xF b c d) = (decodeGroupF b c d).isNone.toNat := by
  have hCD : (lowByte (word4 0xF b c d) == 0xCD) = (c == 0xC && d == 0xD) := lowByte_word4_beq 0xF b c d 0xC 0xD
  have hDD : (lowByte (word4 0xF b c d) == 0xDD) = (c == 0xD && d == 0xD) := lowByte_word4_beq 0xF b c d 0xD 0xD
  have hFD : (lowByte (word4 0xF b c d) == 0xFD) = (c == 0xF && d == 0xD) := lowByte_word4_beq 0xF b c d 0xF 0xD
  simp only [emptyKinds, reservedWord, unusedWord, unlistedWord, isNone_decodeGroupF, nibble3_word4, nibble2_word4, nibble0_word4, hCD,
    hDD, hFD]
  cases d == 0xD <;> simp [Bool.or_assoc, Bool.or_comm, Bool.or_left_comm, Bool.and_assoc]

/-- A word is of one kind of row without an instruction if the decoder knows no row for it, else of none. -/
theorem emptyKinds_word4 {b c d : Nibble} : ∀ a, emptyKinds (word4 a b c d) = (decodeGroup a b c d).isNone.toNat := by
  refine forall_nibble fun k hk => ?_
  match k, hk with
  | 0, _ => exact emptyKinds_group0 b c d
  | 1, _ => simp [emptyKinds, reservedWord, unusedWord, unlistedWord, decodeGroup, decodeGroup1]
  | 2, _ => exact isNone_decodeGroup2 b c d ▸ by simp [emptyKinds, reservedWord, unusedWord, unlistedWord]
  | 3, _ => exact isNone_decodeGroup3 b c d ▸ by simp [emptyKinds, reservedWord, unusedWord, unlistedWord]
  | 4, _ => exact emptyKinds_group4 b c d
  | 5, _ => simp [emptyKinds, reservedWord, unusedWord, unlistedWord, decodeGroup, decodeGroup5]
  | 6, _ => exact isNone_decodeGroup6 b c d ▸ by simp [emptyKinds, reservedWord, unusedWord, unlistedWord]
  | 7, _ => simp [emptyKinds, reservedWord, unusedWord, unlistedWord, decodeGroup, decodeGroup7]
  | 8, _ => exact isNone_decodeGroup8 c d b ▸ by simp [emptyKinds, reservedWord, unusedWord, unlistedWord]
  | 9, _ => exact isNone_decodeGroup9 b c d ▸ by simp [emptyKinds, reservedWord, unusedWord, unlistedWord]
  | 10, _ => simp [emptyKinds, reservedWord, unusedWord, unlistedWord, decodeGroup, decodeGroupA]
  | 11, _ => simp [emptyKinds, reservedWord, unusedWord, unlistedWord, decodeGroup, decodeGroupB]
  | 12, _ => exact isNone_decodeGroupC c d b ▸ by simp [emptyKinds, reservedWord, unusedWord, unlistedWord]
  | 13, _ => simp [emptyKinds, reservedWord, unusedWord, unlistedWord, decodeGroup, decodeGroupD]
  | 14, _ => simp [emptyKinds, reservedWord, unusedWord, unlistedWord, decodeGroup, decodeGroupE]
  | 15, _ => exact emptyKinds_groupF b c d
  | _ + 16, hk => exact absurd hk (by omega)

end Sys2Proof
end

section
/-!
PROOFS. Decoding what was encoded, and encoding what was decoded (30 R140 to R155, 49 R471 to R476).
-/

namespace Sys2Proof

/-- A word by its nibbles. -/
theorem exists_word4 (w : InstrWord) : ∃ a b c d, w = word4 a b c d := ⟨_, _, _, _, (word4_nibbles w).symm⟩

theorem wellFormed_emptyWord {w : InstrWord} (h : emptyKinds w = 1) : (emptyWord w).wellFormed = true := by
  unfold emptyKinds at h
  unfold emptyWord
  split
  case isTrue hr => exact hr
  case isFalse hr =>
    split
    case isTrue hu => exact hu
    case isFalse hu => simpa [hr, hu, Instr.wellFormed] using h

theorem encodeWord_emptyWord (w : InstrWord) : encodeWord (emptyWord w) = w := by
  unfold emptyWord
  split
  · rfl
  · split <;> rfl

/-- Settles O2: a word with a row is the word of that row; a word without one is of exactly one kind of rows without an
instruction. -/
theorem everyWordDecodes : Obligations.EveryWordDecodes := by
  intro w
  obtain ⟨a, b, c, d, rfl⟩ := exists_word4 w
  rw [decodeWord_word4]
  cases h : decodeGroup a b c d with
  | some i => exact isRow_decodeGroup a h
  | none =>
    have hkinds := emptyKinds_word4 (b := b) (c := c) (d := d) a
    rw [h] at hkinds
    exact ⟨wellFormed_emptyWord hkinds, encodeWord_emptyWord _⟩

/-- A word of a row without an instruction decodes to the term for it. -/
theorem decodeWord_of_emptyKinds {w : InstrWord} (h : emptyKinds w ≠ 0) : decodeWord w = emptyWord w := by
  obtain ⟨a, b, c, d, rfl⟩ := exists_word4 w
  rw [emptyKinds_word4] at h
  rw [decodeWord_word4]
  cases hg : decodeGroup a b c d with
  | some i => rw [hg] at h; exact absurd rfl h
  | none => rfl

/-- No word is of two kinds of rows without an instruction. -/
theorem emptyKinds_le_one (w : InstrWord) : emptyKinds w ≤ 1 := by
  obtain ⟨a, b, c, d, rfl⟩ := exists_word4 w
  rw [emptyKinds_word4]
  exact Bool.toNat_le _

theorem decodeWord_reserved {w : InstrWord} (h : reservedWord w = true) : decodeWord w = .reserved w := by
  rw [decodeWord_of_emptyKinds (by rw [emptyKinds, h, Bool.toNat_true]; omega), emptyWord, if_pos h]

theorem decodeWord_unused {w : InstrWord} (h : unusedWord w = true) : decodeWord w = .unused w := by
  have hone := emptyKinds_le_one w
  rw [emptyKinds, h] at hone
  have hr : reservedWord w = false := by
    cases hr : reservedWord w
    · rfl
    · rw [hr, Bool.toNat_true] at hone; omega
  rw [decodeWord_of_emptyKinds (by rw [emptyKinds, h, Bool.toNat_true]; omega), emptyWord, hr, if_neg (by decide), if_pos h]

theorem decodeWord_unlisted {w : InstrWord} (h : unlistedWord w = true) : decodeWord w = .unlisted w := by
  have hone := emptyKinds_le_one w
  rw [emptyKinds, h] at hone
  have hr : reservedWord w = false := by
    cases hr : reservedWord w
    · rfl
    · rw [hr, Bool.toNat_true] at hone; omega
  have hu : unusedWord w = false := by
    cases hu : unusedWord w
    · rfl
    · rw [hu, Bool.toNat_true] at hone; omega
  rw [decodeWord_of_emptyKinds (by rw [emptyKinds, h, Bool.toNat_true]; omega), emptyWord, hr, if_neg (by decide), hu,
    if_neg (by decide)]

/-- A row of the decoder is what its word decodes to. -/
theorem decodeWord_of_row {a b c d : Nibble} {i : Instr} (h : decodeGroup a b c d = some i) : decodeWord (word4 a b c d) = i := by
  rw [decodeWord_word4, h, Option.getD_some]

/-- A row with a byte in its last two nibbles. -/
theorem decodeWord_of_byteRow {a b : Nibble} {f : BitVec 8 → Instr} (h : ∀ c d, decodeGroup a b c d = some (f (c ++ d)))
    (x : BitVec 8) : decodeWord (a ++ b ++ x) = f x := by
  have hrow := decodeWord_of_row (h (x.extractLsb' 4 4) (x.extractLsb' 0 4))
  rwa [word4_eq_byte, byte_nibbles] at hrow

/-- A row with twelve bits in its last three nibbles. -/
theorem decodeWord_of_longRow {a : Nibble} {f : BitVec 12 → Instr} (h : ∀ b c d, decodeGroup a b c d = some (f (b ++ c ++ d)))
    (x : BitVec 12) : decodeWord (a ++ x) = f x := by
  have hrow := decodeWord_of_row (h (x.extractLsb' 8 4) (x.extractLsb' 4 4) (x.extractLsb' 0 4))
  rwa [word4_eq_long, long_nibbles] at hrow

theorem decodeGroup_stcBank (m : BankReg) (n : Reg) : decodeGroup 0 n (0b1#1 ++ m) 2 = some (.stcBank m n) := by
  revert m
  decide +revert

theorem decodeGroup_stcBankPush (m : BankReg) (n : Reg) : decodeGroup 4 n (0b1#1 ++ m) 3 = some (.stcBankPush m n) := by
  revert m
  decide +revert

theorem decodeGroup_ldcBankPop (m : Reg) (n : BankReg) : decodeGroup 4 m (0b1#1 ++ n) 7 = some (.ldcBankPop m n) := by
  revert n
  decide +revert

theorem decodeGroup_ldcBank (m : Reg) (n : BankReg) : decodeGroup 4 m (0b1#1 ++ n) 0xE = some (.ldcBank m n) := by
  revert n
  decide +revert

theorem decodeGroup_movWqStoreR0Disp (n : Reg) {d : BitVec 4} (h : d ≠ 0) :
    decodeGroup 8 1 n d = some (.movWqStoreR0Disp n d) := if_neg h

theorem decodeGroup_movWqLoadR0Disp (m : Reg) {d : BitVec 4} (h : d ≠ 0) :
    decodeGroup 8 5 m d = some (.movWqLoadR0Disp m d) := if_neg h

theorem decodeGroup_movWqLoadDisp (m n : Reg) {d : BitVec 4} (h : d ≠ 0) :
    decodeGroup 9 n m d = some (.movWqLoadDisp m d n) := if_neg h

/-- An instruction of one word decodes from it. -/
theorem decodeWord_encodeWord {i : Instr} (hwf : i.wellFormed = true) (htail : encodeTail i = []) :
    decodeWord (encodeWord i) = i := by
  cases i
  case ldfatMov24 | ldfatMov40 | ldfatMov56 | ldfatBra | ldfatBsr | fatBsr44 | fatBsr60 => cases htail
  case stcBank m n => exact decodeWord_of_row (decodeGroup_stcBank m n)
  case stcBankPush m n => exact decodeWord_of_row (decodeGroup_stcBankPush m n)
  case ldcBankPop m n => exact decodeWord_of_row (decodeGroup_ldcBankPop m n)
  case ldcBank m n => exact decodeWord_of_row (decodeGroup_ldcBank m n)
  case movWqStoreR0Disp n d => exact decodeWord_of_row (decodeGroup_movWqStoreR0Disp n (bne_iff_ne.mp hwf))
  case movWqLoadR0Disp m d => exact decodeWord_of_row (decodeGroup_movWqLoadR0Disp m (bne_iff_ne.mp hwf))
  case movWqLoadDisp m d n => exact decodeWord_of_row (decodeGroup_movWqLoadDisp m n (bne_iff_ne.mp hwf))
  case bra d => exact decodeWord_of_longRow (fun _ _ _ => rfl) d
  case bsr d => exact decodeWord_of_longRow (fun _ _ _ => rfl) d
  case addImm x n => exact decodeWord_of_byteRow (f := (.addImm · n)) (fun _ _ => rfl) x
  case movLqLoadPc x n => exact decodeWord_of_byteRow (f := (.movLqLoadPc · n)) (fun _ _ => rfl) x
  case movImm x n => exact decodeWord_of_byteRow (f := (.movImm · n)) (fun _ _ => rfl) x
  case jsrN8 x | bset x | bst x | cmpeqImm x | bt x | bf x | ldsh8 x | bts x | bfs x | movBStoreGbr x | movWqStoreGbr x |
      movLStoreGbr x | trapa x | movBLoadGbr x | movWqLoadGbr x | movLLoadGbr x | mova x | tstImm x | andImm x | xorImm x | orImm x |
      tstB x | andB x | xorB x | orB x => exact decodeWord_of_byteRow (fun _ _ => rfl) x
  case unused w => exact decodeWord_unused hwf
  case reserved w => exact decodeWord_reserved hwf
  case unlisted w => exact decodeWord_unlisted hwf
  all_goals exact decodeWord_of_row rfl

/-! Fat loads. -/

/-- The fields of an operation word with a byte. -/
theorem fields_of_byteWord (x : Nibble) (n : Reg) (y : BitVec 8) :
    nibble3 (x ++ n ++ y) = x ∧ nibble2 (x ++ n ++ y) = n ∧ lowByte (x ++ n ++ y) = y := by
  rw [← byte_nibbles y, ← word4_eq_byte]
  exact ⟨nibble3_word4 .., nibble2_word4 .., lowByte_word4 ..⟩

/-- The fields of an operation word with twelve bits. -/
theorem fields_of_longWord (x : Nibble) (y : BitVec 12) : nibble3 (x ++ y) = x ∧ (x ++ y).extractLsb' 0 12 = y := by
  refine ⟨?_, BitVec.extractLsb'_append_eq_right⟩
  rw [← long_nibbles y, ← word4_eq_long]
  exact nibble3_word4 ..

/-- Two fields side by side, the lower one from bit `k`. -/
theorem adjacent_fields {w : Nat} (x : BitVec w) (k m n : Nat) :
    x.extractLsb' (k + n) m ++ x.extractLsb' k n = x.extractLsb' k (m + n) :=
  BitVec.extractLsb'_append_extractLsb'_eq_extractLsb' (Nat.add_comm k n ▸ rfl)

theorem decodeFatL_mov {w1 : InstrWord} (h : nibble3 w1 = 0xE#4) (w2 : InstrWord) :
    decodeFatL [w1, w2] = .ok (.ldfatMov24 (lowByte w1 ++ w2) (nibble2 w1), []) := by
  simp only [decodeFatL, h]

theorem decodeFatL_bra {w1 : InstrWord} (h : nibble3 w1 = 0xA#4) (w2 : InstrWord) :
    decodeFatL [w1, w2] = .ok (.ldfatBra (w1.extractLsb' 0 12 ++ w2), []) := by
  simp only [decodeFatL, h]

theorem decodeFatL_bsr {w1 : InstrWord} (h : nibble3 w1 = 0xB#4) (w2 : InstrWord) :
    decodeFatL [w1, w2] = .ok (.ldfatBsr (w1.extractLsb' 0 12 ++ w2), []) := by
  simp only [decodeFatL, h]

theorem decode_ldfatMov24 (odd : Bool) (imm : BitVec 24) (n : Reg) :
    decode odd (encode (.ldfatMov24 imm n)) = .ok (.ldfatMov24 imm n, []) := by
  obtain ⟨h3, h2, hb⟩ := fields_of_byteWord 0xE#4 n (imm.extractLsb' 16 8)
  have himm : imm.extractLsb' 16 8 ++ imm.extractLsb' 0 16 = imm :=
    (adjacent_fields imm 0 8 16).trans BitVec.extractLsb'_eq_self
  refine (decode_of_prefixL ..).trans ((decodeFatL_mov h3 _).trans ?_)
  rw [h2, hb, himm]

theorem decode_ldfatBra (odd : Bool) (d : BitVec 28) : decode odd (encode (.ldfatBra d)) = .ok (.ldfatBra d, []) := by
  obtain ⟨h3, hd⟩ := fields_of_longWord 0xA#4 (d.extractLsb' 16 12)
  refine (decode_of_prefixL ..).trans ((decodeFatL_bra h3 _).trans ?_)
  rw [hd, (adjacent_fields d 0 12 16).trans BitVec.extractLsb'_eq_self]

theorem decode_ldfatBsr (odd : Bool) (d : BitVec 28) : decode odd (encode (.ldfatBsr d)) = .ok (.ldfatBsr d, []) := by
  obtain ⟨h3, hd⟩ := fields_of_longWord 0xB#4 (d.extractLsb' 16 12)
  refine (decode_of_prefixL ..).trans ((decodeFatL_bsr h3 _).trans ?_)
  rw [hd, (adjacent_fields d 0 12 16).trans BitVec.extractLsb'_eq_self]

theorem decode_ldfatMov40 (imm : BitVec 40) (n : Reg) :
    decode false (encode (.ldfatMov40 imm n)) = .ok (.ldfatMov40 imm n, []) := by
  obtain ⟨h3, h2, hb⟩ := fields_of_byteWord 0xE#4 n (imm.extractLsb' 32 8)
  have himm : imm.extractLsb' 32 8 ++ imm.extractLsb' 16 16 ++ imm.extractLsb' 0 16 = imm := by
    rw [adjacent_fields imm 16 8 16]
    exact (adjacent_fields imm 0 24 16).trans BitVec.extractLsb'_eq_self
  refine (decode_of_prefixQ ..).trans ((if_pos h3).trans ?_)
  rw [h2, hb, himm]

theorem decode_ldfatMov56 (imm : BitVec 56) (n : Reg) :
    decode true (encode (.ldfatMov56 imm n)) = .ok (.ldfatMov56 imm n, []) := by
  obtain ⟨h3, h2, hb⟩ := fields_of_byteWord 0xE#4 n (imm.extractLsb' 48 8)
  have himm : imm.extractLsb' 48 8 ++ imm.extractLsb' 32 16 ++ imm.extractLsb' 16 16 ++ imm.extractLsb' 0 16 = imm := by
    rw [adjacent_fields imm 32 8 16, adjacent_fields imm 16 24 16]
    exact (adjacent_fields imm 0 40 16).trans BitVec.extractLsb'_eq_self
  refine (decode_of_prefixQ ..).trans ((if_pos h3).trans ?_)
  rw [h2, hb, himm]

/-- An instruction of one word decodes from its words: the two words that open fat layouts are their own instructions alone. -/
theorem decode_encode_of_word {i : Instr} (odd : Bool) (hwf : i.wellFormed = true) (htail : encodeTail i = []) :
    decode odd (encode i) = .ok (i, []) := by
  have hword := decodeWord_encodeWord hwf htail
  rw [encode, htail]
  by_cases hL : encodeWord i = 0x008B#16
  · rw [hL] at hword ⊢
    rw [← hword]
    rfl
  by_cases hQ : encodeWord i = 0x009B#16
  · rw [hQ] at hword ⊢
    rw [← hword]
    rfl
  · rw [decode_of_plain odd hL hQ, hword]

/-- Settles O1: a fat load's fields are those of its words side by side; every other instruction is the row of its one word. -/
theorem decodeOfEncode : Obligations.DecodeOfEncode := by
  intro i odd hwf hodd
  cases i
  case ldfatMov24 imm n => exact decode_ldfatMov24 odd imm n
  case ldfatMov40 imm n =>
    rw [show odd = false by simpa [Instr.standsAt] using hodd]
    exact decode_ldfatMov40 imm n
  case ldfatMov56 imm n =>
    rw [show odd = true from hodd]
    exact decode_ldfatMov56 imm n
  case ldfatBra d => exact decode_ldfatBra odd d
  case ldfatBsr d => exact decode_ldfatBsr odd d
  case fatBsr44 | fatBsr60 => cases hwf
  all_goals exact decode_encode_of_word odd hwf rfl

/-- Settles O3: the decoder evaluates each of the words. -/
theorem encodingWords : Obligations.EncodingWords :=
  ⟨rfl, rfl, rfl, rfl, rfl, rfl, rfl, rfl, rfl, rfl, rfl, rfl, rfl, rfl, rfl, rfl, rfl, rfl⟩

end Sys2Proof
end

section
/-!
PROOFS. Memory and addresses: the canonical form is one list for each content, where the bytes of a stored value lie, what value bytes
hold, and the normalisation of addresses (20 R90 to R97, R111).
-/

namespace Sys2Proof.Machine

/-! The canonical form. -/

theorem Memory.read_head (x : Nat) (b : Byte) (m : List Host.Cell) : Memory.read ((x, b) :: m) x = b := if_pos rfl

theorem Memory.read_tail {x a : Nat} (h : x ≠ a) (b : Byte) (m : List Host.Cell) :
    Memory.read ((x, b) :: m) a = Memory.read m a := if_neg h

/-- A canonical memory differs from one that lists nothing at its first address or below. -/
theorem Memory.read_head_ne {x : Nat} {b : Byte} {m n : List Host.Cell} (hm : Memory.wf ((x, b) :: m)) (hn : ∀ d ∈ n, x < d.1) :
    Memory.read ((x, b) :: m) x ≠ Memory.read n x := by
  rw [Memory.read_head, Memory.read_of_lt hn]
  exact hm.2 (x, b) List.mem_cons_self

/-- Below its first address a canonical memory lists nothing. -/
theorem Memory.lt_of_lt_head {x y : Nat} {c : Byte} {n : List Host.Cell} (hn : Memory.wf ((y, c) :: n)) (h : x < y) :
    ∀ d ∈ (y, c) :: n, x < d.1 := by
  intro d hd
  rcases List.mem_cons.mp hd with rfl | hd
  · exact h
  · exact h.trans (Memory.head_lt hn d hd)

/-- Settles O14, by induction on one list: two canonical lists that read the same begin with the same cell, for the lower of two
different first addresses would read differently. -/
theorem memoryExtensional : Obligations.MemoryExtensional := by
  intro m
  induction m with
  | nil =>
    intro n _ hn heq
    cases n with
    | nil => rfl
    | cons d n => exact absurd (heq d.1).symm (Memory.read_head_ne hn (by simp))
  | cons c m ih =>
    intro n hm hn heq
    obtain ⟨x, b⟩ := c
    cases n with
    | nil => exact absurd (heq x) (Memory.read_head_ne hm (by simp))
    | cons d n =>
      obtain ⟨y, c⟩ := d
      rcases Nat.lt_trichotomy x y with hlt | rfl | hlt
      · exact absurd (heq x) (Memory.read_head_ne hm (Memory.lt_of_lt_head hn hlt))
      · have hbc : b = c := by simpa only [Memory.read_head] using heq x
        subst hbc
        refine congrArg _ (ih n (Memory.wf_tail hm) (Memory.wf_tail hn) fun a => ?_)
        by_cases ha : x = a
        · subst ha
          rw [Memory.read_of_lt (Memory.head_lt hm), Memory.read_of_lt (Memory.head_lt hn)]
        · have hread := heq a
          rwa [Memory.read_tail ha, Memory.read_tail ha] at hread
      · exact absurd (heq y).symm (Memory.read_head_ne hn (Memory.lt_of_lt_head hm hlt))

/-! Bytes of a value. -/

theorem toNat_getD_littleBytes {count k : Nat} (h : k < count) (v : Nat) :
    ((littleBytes count v).getD k 0).toNat = v / 2 ^ (8 * k) % 256 := by
  induction count generalizing k v with
  | zero => omega
  | succ count ih =>
    cases k with
    | zero => simp [littleBytes]
    | succ k =>
      have hpow : 2 ^ (8 * (k + 1)) = 256 * 2 ^ (8 * k) := by rw [Nat.mul_add, pow_add]; ring
      rw [hpow, ← Nat.div_div_eq_div_mul]
      exact ih (by omega) _

theorem toNat_getD_bytes (o : ByteOrder) {count k : Nat} (h : k < count) (v : Nat) :
    ((o.bytes count v).getD k 0).toNat =
      match o with
      | .little => v / 2 ^ (8 * k) % 256
      | .big => v / 2 ^ (8 * (count - 1 - k)) % 256 := by
  cases o with
  | little => exact toNat_getD_littleBytes h v
  | big =>
    have hrev : (ByteOrder.big.bytes count v).getD k 0 = (littleBytes count v).getD (count - 1 - k) 0 := by
      simp only [ByteOrder.bytes, List.getD_eq_getElem?_getD]
      rw [List.getElem?_reverse (by simpa using h), length_littleBytes]
    rw [hrev]
    exact toNat_getD_littleBytes (by omega) v

/-- The tags that a store marks: those in a block of one of its bytes. -/
theorem Tags.getElem?_mark (shift a count n : Nat) (tags : List XTag) :
    (Tags.mark shift a count tags)[n]? = (tags[n]?).map fun u : XTag =>
      (⟨u.addr, u.flags, u.dirty || decide (∃ k < count, u.addr / 2 ^ shift = (a + k) / 2 ^ shift)⟩ : XTag) := by
  rw [Tags.mark, List.getElem?_map]
  congr 1
  funext u
  have hany : (List.range count).any (fun k => sameBlock shift u.addr (a + k)) =
      decide (∃ k < count, u.addr / 2 ^ shift = (a + k) / 2 ^ shift) := by
    rw [Bool.eq_iff_iff]
    simp [sameBlock]
  rw [hany]
  split
  case isTrue h => simp [h]
  case isFalse h => simp [Bool.eq_false_iff.mpr h]

/-- Settles O15: the list of the value's bytes read at its place, and the marks tag by tag. -/
theorem storedBytes : Obligations.StoredBytes := by
  intro s o a count v hm
  refine ⟨fun k hk => ?_, fun x hx => ?_, Memory.wf_writeBytes hm, fun n => Tags.getElem?_mark _ _ _ n _⟩
  · have hin : a.toNat ≤ a.toNat + k ∧ a.toNat + k < a.toNat + (o.bytes count v).length := by
      rw [ByteOrder.length_bytes]
      omega
    have hread : Memory.read (s.putBytes o a count v).mem (a.toNat + k) = (o.bytes count v).getD k 0 := by
      refine (Memory.read_writeBytes hm).trans ((if_pos hin).trans ?_)
      rw [Nat.add_sub_cancel_left]
    rw [hread]
    exact toNat_getD_bytes o hk v
  · refine Memory.read_writeBytes_of_outside hm ?_
    rw [ByteOrder.length_bytes]
    exact hx (a, count) List.mem_cons_self

theorem littleValue_eq_sum (bs : List Byte) :
    littleValue bs = ((List.range bs.length).map fun k => (bs.getD k 0).toNat * 256 ^ k).sum := by
  induction bs with
  | nil => rfl
  | cons b bs ih =>
    rw [littleValue, ih, List.length_cons, List.range_succ_eq_map, List.map_cons, List.sum_cons, List.map_map, ← List.sum_map_mul_left]
    congr 1
    · simp
    · refine congrArg _ (List.map_congr_left fun k _ => ?_)
      simp only [Function.comp_apply, List.getD_cons_succ, Nat.succ_eq_add_one, pow_succ]
      ring

theorem getD_readBytes (m : List Host.Cell) (a : Nat) {count k : Nat} (h : k < count) :
    (Memory.readBytes m a count).getD k 0 = Memory.read m (a + k) := by
  simp [Memory.readBytes, h]

theorem getD_reverse_readBytes (m : List Host.Cell) (a : Nat) {count k : Nat} (h : k < count) :
    (Memory.readBytes m a count).reverse.getD k 0 = Memory.read m (a + (count - 1 - k)) := by
  rw [← getD_readBytes m a (show count - 1 - k < count by omega), List.getD_eq_getElem?_getD,
    List.getElem?_reverse (by simpa using h), Memory.length_readBytes, ← List.getD_eq_getElem?_getD]

/-- The value at an address does not overflow its bytes. -/
theorem State.toNat_valueAt (s : State) (o : ByteOrder) (a : BitVec 64) (count : Nat) :
    (s.valueAt o a count).toNat = o.value (Memory.readBytes s.mem a.toNat count) := by
  rw [State.valueAt, BitVec.toNat_ofNat, Nat.mod_eq_of_lt]
  have hlt := o.value_lt (Memory.readBytes s.mem a.toNat count)
  rwa [Memory.length_readBytes] at hlt

/-- Settles O16: the value of a list of bytes is their sum, each at its place; big-endian bytes are reversed first. -/
theorem valueOfBytes : Obligations.ValueOfBytes := by
  intro s a count
  refine ⟨?_, ?_⟩
  · rw [s.toNat_valueAt, ByteOrder.value, littleValue_eq_sum, Memory.length_readBytes]
    refine congrArg _ (List.map_congr_left fun k hk => ?_)
    rw [getD_readBytes _ _ (List.mem_range.mp hk)]
  · rw [s.toNat_valueAt, ByteOrder.value, littleValue_eq_sum, List.length_reverse, Memory.length_readBytes]
    refine Eq.trans ?_
      (Finset.sum_range_reflect (fun k => (Memory.read s.mem (a.toNat + k)).toNat * 256 ^ (count - 1 - k)) count)
    refine congrArg List.sum (List.map_congr_left fun k hk => ?_)
    have hk := List.mem_range.mp hk
    rw [getD_reverse_readBytes _ _ hk, show count - 1 - (count - 1 - k) = k by omega]

/-! Addresses. -/

/-- A bit of a number of 48 bits, extended by its sign. -/
theorem getLsbD_signExtend_fortyeight (a : BitVec 64) {k : Nat} (h : k < 64) :
    ((a.setWidth 48).signExtend 64).getLsbD k = if k < 48 then a.getLsbD k else a.getLsbD 47 := by
  rw [BitVec.getLsbD_signExtend]
  by_cases hk : k < 48 <;> simp [h, hk, BitVec.msb_eq_getLsbD_last]

theorem canonical_iff (a : BitVec 64) : canonical a = true ↔ ∀ k, 47 ≤ k → k < 64 → a.getLsbD k = a.getLsbD 47 := by
  rw [canonical, beq_iff_eq]
  refine ⟨fun h k h47 h64 => ?_, fun h => BitVec.eq_of_getLsbD_eq fun k h64 => ?_⟩
  · have hbit := getLsbD_signExtend_fortyeight a h64
    rw [h] at hbit
    by_cases hk : k = 47
    · rw [hk]
    · rwa [if_neg (by omega)] at hbit
  · rw [getLsbD_signExtend_fortyeight a h64]
    split
    · rfl
    · exact (h k (by omega) h64).symm

theorem State.ea_of_wide {s : State} (h : s.aq = true) (a : BitVec 64) : s.ea a = a := by
  rw [State.ea, h, normalise, if_pos rfl]

theorem State.ea_of_narrow {s : State} (h : s.aq = false) (a : BitVec 64) : s.ea a = (a.setWidth 32).signExtend 64 := by
  rw [State.ea, h, normalise, if_neg (by decide)]

/-- A number of 32 bits, extended by its sign, is a canonical address. -/
theorem canonical_signExtend (v : BitVec 32) : canonical (v.signExtend 64) = true := by
  rw [canonical_iff]
  intro k h47 h64
  rw [BitVec.getLsbD_signExtend, BitVec.getLsbD_signExtend]
  simp [h64, show ¬ k < 32 by omega]

/-- Settles O17: at `SR.AQ` = 0 an address is the sign extension of its low half. -/
theorem normalisation : Obligations.Normalisation := by
  intro s a b
  refine ⟨fun h => s.ea_of_wide h a, fun h => ⟨?_, ?_, fun hab => ?_⟩, s.ea_ea a, canonical_iff a⟩
  · rw [s.ea_of_narrow h, BitVec.toInt_signExtend_of_le (by decide)]
  · rw [s.ea_of_narrow h]
    exact canonical_signExtend _
  · have hlow : a.setWidth 32 = b.setWidth 32 := BitVec.eq_of_toNat_eq (by simpa using hab)
    rw [s.ea_of_narrow h, s.ea_of_narrow h, hlow]

end Sys2Proof.Machine
end

section
/-!
PROOFS. Boundaries: start-up, the acceptance of an interrupt, and the fetch of the words of one instruction (60 R506 to R509, R516,
70 R560 to R563, R578, 49 R470, R471, 20 R110, R111).
-/

namespace Sys2Proof.Machine

/-! Start-up. -/

theorem State.inv_reset : State.reset.Inv where
  mem := Memory.wf_reset
  tags := .nil
  evenTags := by simp [State.reset]
  pc := rfl
  slot := holdsSlot_of_none rfl

/-- Settles O5: start-up evaluates on the empty memory. -/
theorem resetIsStartUp : Obligations.ResetIsStartUp := ⟨State.inv_reset, rfl⟩

/-- The state that start-up leaves but for its stack pointer. -/
def startState (m : List Host.Cell) (p : Params) (irq : List (Option IrqRequest)) (o : ByteOrder) : State :=
  { State.reset with
    mem := m
    params := p
    irqInput := irq
    sr := putBit ((startWord m o 8).setWidth 64) 23 (o == .little)
    pc := (startWord m o 0).signExtend 64 }

/-- The stack pointer that start-up leaves. -/
def startStack (m : List Host.Cell) (o : ByteOrder) (wide : Bool) : Reg64 :=
  ⟨if wide then ((startWord m o 4).signExtend 64).extractLsb' 32 32 else 0, startWord m o 4⟩

/-- What start-up answers, if it answers a state. -/
theorem startUp_next {m : List Host.Cell} {p : Params} {irq : List (Option IrqRequest)} {s : State}
    (h : startUp m p irq = .next s) : ∃ o, startOrder m = some o ∧ (startWord m o 0).getLsbD 0 = false ∧
      s = (startState m p irq o).putReg 15 (startStack m o (startState m p irq o).wide) := by
  unfold startUp at h
  split at h
  · cases h
  split at h
  · cases h
  cases ho : startOrder m with
  | none => rw [ho] at h; cases h
  | some o =>
    rw [ho] at h
    dsimp only at h
    split at h
    · cases h
    case isFalse hodd =>
      split at h
      · cases h
      · exact ⟨o, rfl, Bool.not_eq_true _ ▸ hodd, (Host.Outcome.next.inj h).symm⟩

/-- The magic reads correctly in the byte order that start-up takes. -/
theorem value_of_startOrder {m : List Host.Cell} {o : ByteOrder} (h : startOrder m = some o) :
    o.value (Memory.readBytes m (Config.startBlock + 12) 4) = 0x424A3041 := by
  unfold startOrder startBytes at h
  split at h
  case isTrue hbytes =>
    cases h
    rw [hbytes]
    rfl
  case isFalse =>
    split at h
    case isTrue hbytes =>
      cases h
      rw [hbytes]
      rfl
    case isFalse => cases h

theorem toNat_startWord (m : List Host.Cell) (o : ByteOrder) (offset : Nat) :
    (startWord m o offset).toNat = o.value (Memory.readBytes m (Config.startBlock + offset) 4) := by
  have hlt := o.value_lt (Memory.readBytes m (Config.startBlock + offset) 4)
  rw [Memory.length_readBytes] at hlt
  exact (BitVec.toNat_ofNat ..).trans (Nat.mod_eq_of_lt hlt)

/-- A register that holds the sign extension of its low half. -/
theorem Reg64.low_signExtended (v : BitVec 32) : Reg64.low ⟨(v.signExtend 64).extractLsb' 32 32, v⟩ 64 = v.signExtend 64 := by
  have hlow : (v.signExtend 64).extractLsb' 0 32 = v := by
    refine BitVec.eq_of_getLsbD_eq fun k hk => ?_
    rw [BitVec.getLsbD_extractLsb', Nat.zero_add, BitVec.getLsbD_signExtend]
    simp [hk, show k < 64 by omega]
  have hfull := Reg64.low_ofBits_sixtyfour (v.signExtend 64)
  rwa [Reg64.ofBits, hlow] at hfull

/-- Settles O6: the fields of the state that start-up builds. -/
theorem startUpLeaves : Obligations.StartUp := by
  intro m p irq s h
  obtain ⟨o, ho, heven, rfl⟩ := startUp_next h
  have hreg := (startState m p irq o).reg_putReg_self 15 (startStack m o (startState m p irq o).wide)
  refine ⟨o, value_of_startOrder ho, ?pc, fun k hk h23 => ?sr, ?me, ?sp, fun hw => ?spInt, rfl, rfl, rfl, ?even, rfl, rfl, rfl⟩
  case pc => exact BitVec.toInt_signExtend_of_le (by decide)
  case sr =>
    refine (getLsbD_putBit ..).trans ((if_neg fun h => h23 h.1).trans ?_)
    rw [BitVec.getLsbD_setWidth, BitVec.getLsbD, toNat_startWord]
    simp [show k < 64 by omega]
  case me => exact (getLsbD_putBit ..).trans (if_pos (by decide))
  case sp => rw [hreg]; exact toNat_startWord m o 4
  case spInt =>
    have hwide : (startState m p irq o).wide = true := hw
    rw [State.xInt, State.x, State.W_of_wide hw, hreg, startStack, hwide]
    exact (congrArg BitVec.toInt (Reg64.low_signExtended _)).trans (BitVec.toInt_signExtend_of_le (by decide))
  case even =>
    refine (BitVec.getLsbD_signExtend ..).trans ?_
    simpa using heven

/-! The boundary before an instruction. -/

/-- Where nothing else comes first, a step runs the instruction at the program counter. -/
theorem step_of_starts {s : State} (h : s.Starts) : step s = s.passBoundary.runInstr := by
  simp [step, h.noMmu, h.notFinal, h.noInterrupt, h.awake, h.mode]

theorem State.accepted_of_head {s : State} {r : IrqRequest} {rest : List (Option IrqRequest)} (h : s.irqInput = some r :: rest) :
    s.accepted = if s.slot = none ∧ s.bl = false ∧ s.im.toNat < r.level.toNat then some r else none := by
  have haccepts : s.accepts r = true ↔ s.slot = none ∧ s.bl = false ∧ s.im.toNat < r.level.toNat := by
    simp [State.accepts, BitVec.ult, and_assoc]
  rw [State.accepted, State.presented, h]
  by_cases hr : s.accepts r = true
  · rw [if_pos (haccepts.mp hr)]
    simp [Option.filter, hr]
  · rw [if_neg (haccepts.not.mp hr)]
    simp [Option.filter, hr]

theorem State.accepted_of_nothing {s : State} (h : s.irqInput = [] ∨ s.irqInput.head? = some none) : s.accepted = none := by
  have hpresented : s.presented = none := by
    unfold State.presented
    cases hs : s.irqInput with
    | nil => rfl
    | cons r rest =>
      rw [hs] at h
      simp at h
      rw [h]
  rw [State.accepted, hpresented]
  rfl

/-- What the boundary does where no request is accepted. -/
theorem step_of_accepted_none {s : State} (hmmu : s.params.hasMMU = false) (h : s.accepted = none) :
    (s.asleep = true → step s = .next s.passBoundary) ∧
    (s.asleep = false → s.modeAllowed = true → ¬ (s.slot = none ∧ s.params.endPC = some s.pc) →
      step s = s.passBoundary.runInstr) ∧
    (s.asleep = false → s.modeAllowed = true → s.slot = none → s.params.endPC = some s.pc → step s = .next s) := by
  refine ⟨fun hsleep => ?_, fun hawake hmode hend => ?_, fun hawake hmode hslot hend => ?_⟩
  · have hfinal : s.final = false := by simp [State.final, hsleep]
    simp [step, hmmu, hfinal, h, hsleep]
  · refine step_of_starts ⟨hmmu, ?_, h, hawake, hmode⟩
    rw [Bool.eq_false_iff]
    intro hfinal
    simp [State.final] at hfinal
    exact hend ⟨hfinal.1.2, hfinal.2⟩
  · have hfinal : s.final = true := by simp [State.final, h, hawake, hmode, hslot, hend]
    simp [step, hmmu, hfinal]

/-- Settles O12: what is accepted decides the step; where nothing is, sleep, the mode and `EndPC` do. -/
theorem interruptAcceptance : Obligations.InterruptAcceptance := by
  refine ⟨fun s r rest hmmu hirq => ⟨fun hacc => ?_, fun hacc => ?_⟩, fun s hmmu hirq => ?_⟩
  · have haccepted := (State.accepted_of_head hirq).trans (if_pos hacc)
    have hfinal : s.final = false := by simp [State.final, haccepted]
    simp [step, hmmu, hfinal, haccepted, State.passBoundary, hirq]
  · have hstep := step_of_accepted_none hmmu ((State.accepted_of_head hirq).trans (if_neg hacc))
    rwa [State.passBoundary, hirq] at hstep
  · exact step_of_accepted_none hmmu (State.accepted_of_nothing hirq)

/-! The fetch. -/

/-- What a step runs, where it fetches. -/
theorem runInstr_of_fetched {s t : State} {ws rest : List InstrWord} {i : Instr} (h : s.fetchWords = .ok (ws, t))
    (hdecode : decode s.wordParity ws = .ok (i, rest)) :
    s.runInstr = if s.mayRun i then exec i t else trapEntry .illegalInstruction t := by
  have hfetch := answers_fetchWords s
  rw [h] at hfetch
  cases hfetch with
  | ok ht =>
    have hrun : t.mayRun i = s.mayRun i := by
      have hsr : t.sr = s.sr := ht.sr
      have hparams : t.params = s.params := ht.params
      simp only [State.mayRun, State.md, hsr, hparams]
    simp only [State.runInstr, h, hdecode, hrun]

/-- The fetch of a word that opens no fat load. -/
theorem State.fetchWords_of_plain {s : State} (h : s.Fetches s.pc) (hL : s.valueAt s.machineOrder s.pc 2 ≠ 0x008B)
    (hQ : s.valueAt s.machineOrder s.pc 2 ≠ 0x009B) :
    s.fetchWords = .ok ([s.valueAt s.machineOrder s.pc 2],
      { s with xtag := Tags.record s.xtag ⟨s.pc.toNat, s.modeFlags, false⟩ }) := by
  have hplain : ¬ (s.params.hasFatLoad = true ∧
      (s.valueAt s.machineOrder s.pc 2 = 0x008B#16 ∨ s.valueAt s.machineOrder s.pc 2 = 0x009B#16)) :=
    fun hfat => hfat.2.elim hL hQ
  rw [State.fetchWords, State.fetchWord_of_fetches h]
  exact if_neg hplain

/-- Settles O7: the fetch leaves the mode and the privileged set alone, and a plain word is fetched and decoded by itself. -/
theorem stepRunsInstruction : Obligations.StepRunsInstruction := by
  refine ⟨fun s t ws rest i hs hfetch hdecode => ?_, fun s w h hw hL hQ => ?_⟩
  · have hstep : step s = if s.mayRun i then exec i t else trapEntry .illegalInstruction t :=
      (step_of_starts hs).trans (runInstr_of_fetched hfetch hdecode)
    refine ⟨fun hrun => hstep.trans (if_pos hrun), fun hmd hin => hstep.trans (if_neg ?_)⟩
    simp [State.mayRun_of_user hmd, hin]
  · subst hw
    exact ⟨State.fetchWords_of_plain h hL hQ, decode_of_plain _ hL hQ []⟩

/-- The state after a fetch at an address: its tag is recorded. -/
def State.tagged (s : State) (a : BitVec 64) : State :=
  { s with xtag := Tags.record s.xtag ⟨a.toNat, s.modeFlags, false⟩ }

theorem State.fetchWord_eq_tagged {s : State} {a : BitVec 64} (h : s.Fetches a) :
    s.fetchWord a = .ok (s.valueAt s.machineOrder a 2, s.tagged a) :=
  State.fetchWord_of_fetches h

theorem State.fetches_tagged {s : State} {a b : BitVec 64} (h : s.Fetches b) : (s.tagged a).Fetches b := h.after a

/-- The fetch of further words, each of which can be fetched. -/
theorem State.fetchMore_of_fetches {count : Nat} {offset : Nat} {s : State}
    (h : ∀ k < count, s.Fetches (s.pcPlus (BitVec.ofNat 64 (offset + 2 * k)))) :
    ∃ t, State.fetchMore count (BitVec.ofNat 64 offset) s =
      .ok ((List.range count).map fun k => s.valueAt s.machineOrder (s.pcPlus (BitVec.ofNat 64 (offset + 2 * k))) 2, t) ∧
      t = { s with xtag := t.xtag } := by
  induction count generalizing offset s with
  | zero => exact ⟨s, rfl, rfl⟩
  | succ count ih =>
    have hfirst : s.Fetches (s.pcPlus (BitVec.ofNat 64 offset)) := h 0 (by omega)
    have hnext : BitVec.ofNat 64 offset + 2 = BitVec.ofNat 64 (offset + 2) := by simp [BitVec.ofNat_add]
    have hshift : ∀ k, offset + 2 * (k + 1) = offset + 2 + 2 * k := fun k => by ring
    have hrest : ∀ k < count, (s.tagged (s.pcPlus (BitVec.ofNat 64 offset))).Fetches
        (s.pcPlus (BitVec.ofNat 64 (offset + 2 + 2 * k))) := fun k hk =>
      State.fetches_tagged (hshift k ▸ h (k + 1) (by omega))
    obtain ⟨t, hmore, ht⟩ := ih (s := s.tagged (s.pcPlus (BitVec.ofNat 64 offset))) hrest
    refine ⟨t, ?_, by rw [ht]; rfl⟩
    simp only [List.range_succ_eq_map, List.map_cons, List.map_map, Function.comp_def, Nat.succ_eq_add_one, hshift]
    simp only [State.fetchMore, State.fetchWord_eq_tagged hfirst, bind, Except.bind, pure, Except.pure, hnext, hmore]
    rfl

/-- The fetch of a fat load, each of whose words can be fetched. -/
theorem State.fetchWords_of_fat {s : State} {more : Nat} (hfat : s.params.hasFatLoad = true) (hpc : s.holdsPc)
    (hopen : s.valueAt s.machineOrder s.pc 2 = 0x008B#16 ∨ s.valueAt s.machineOrder s.pc 2 = 0x009B#16)
    (hmore : extensionWords s.wordParity (s.valueAt s.machineOrder s.pc 2) (s.valueAt s.machineOrder (s.pcPlus 2) 2) = more)
    (h : ∀ k < more + 2, s.Fetches (s.pcPlus (BitVec.ofNat 64 (2 * k)))) :
    ∃ t, s.fetchWords = .ok ((List.range (more + 2)).map fun k =>
        s.valueAt s.machineOrder (s.pcPlus (BitVec.ofNat 64 (2 * k))) 2, t) ∧ t = { s with xtag := t.xtag } := by
  have hzero : s.pcPlus (BitVec.ofNat 64 (2 * 0)) = s.pc := (congrArg s.ea (BitVec.add_zero s.pc)).trans hpc
  have hfirst : s.Fetches s.pc := hzero ▸ h 0 (by omega)
  have hsecond : (s.tagged s.pc).Fetches (s.pcPlus 2) := State.fetches_tagged (h 1 (by omega))
  have hshift : ∀ k, 2 * (k + 1 + 1) = 4 + 2 * k := fun k => by ring
  obtain ⟨t, hrest, ht⟩ := State.fetchMore_of_fetches (count := more) (offset := 4)
    (s := (s.tagged s.pc).tagged (s.pcPlus 2)) fun k hk =>
      State.fetches_tagged (State.fetches_tagged (hshift k ▸ h (k + 2) (by omega)))
  refine ⟨t, ?_, by rw [ht]; rfl⟩
  simp only [State.fetchWords, State.fetchWord_eq_tagged hfirst, bind, Except.bind, hfat, hopen, and_self, if_true]
  rw [State.fetchWord_eq_tagged hsecond]
  simp only [List.range_succ_eq_map, List.map_cons, List.map_map, Function.comp_def, Nat.succ_eq_add_one, hshift, hzero]
  have hmore' : extensionWords s.wordParity (s.valueAt s.machineOrder s.pc 2)
    ((s.tagged s.pc).valueAt (s.tagged s.pc).machineOrder (s.pcPlus 2) 2) = more := hmore
  simp only [hmore']
  rw [show (4 : BitVec 64) = BitVec.ofNat 64 4 from rfl, hrest]
  rfl

/-- Settles O8: after the two words that open it, a fat load's layout says how many more are fetched. -/
theorem fatLoadFetch : Obligations.FatLoadFetch := by
  intro s w0 w1 count hfat hpc h0 h1 hfetch hlayout
  subst h0 h1
  rcases hlayout with ⟨hopen, hnibble, rfl⟩ | ⟨hopen, hnibble, rfl⟩
  · exact State.fetchWords_of_fat (more := 1) hfat hpc (.inl hopen) ((if_pos hopen).trans (if_pos hnibble)) hfetch
  · have hmore : extensionWords s.wordParity (s.valueAt s.machineOrder s.pc 2) (s.valueAt s.machineOrder (s.pcPlus 2) 2)
        = if s.wordParity then 3 else 2 := by
      rw [extensionWords, hopen]; exact (if_neg (by decide)).trans (if_pos hnibble)
    have hcount : (if s.wordParity then 5 else 4) = (if s.wordParity then 3 else 2) + 2 := by split <;> rfl
    rw [hcount] at hfetch ⊢
    exact State.fetchWords_of_fat hfat hpc (.inr hopen) hmore hfetch

/-- A fetch whose word has a tag with other flags stops. -/
theorem State.fetchWord_of_clash {s : State} {a : BitVec 64} (h : s.Reads a 2 2) {u : XTag}
    (hfind : Tags.find s.xtag a.toNat = some u) (hflags : u.flags ≠ s.modeFlags) :
    s.fetchWord a = .error (.fault .undefinedFlags) := by
  have hclash : s.flagsClash a = true := by simp [State.flagsClash, hfind, hflags]
  simp [State.fetchWord, State.checkAccess_of_reads (kind := .fetch) (by decide) h, hclash, bind, Except.bind]

/-- A fetch from a block that holds a dirty tag, whose word has no tag with other flags, stops. -/
theorem State.fetchWord_of_dirty {s : State} {a : BitVec 64} (h : s.Reads a 2 2)
    (hflags : ∀ u, Tags.find s.xtag a.toNat = some u → u.flags = s.modeFlags) {u : XTag} (hu : u ∈ s.xtag)
    (hdirty : u.dirty = true) (hblock : sameBlock s.params.icacheShift u.addr a.toNat = true) :
    s.fetchWord a = .error (.fault .undefinedModified) := by
  have hclash : s.flagsClash a = false := by
    unfold State.flagsClash
    split
    · next v hv => simp [hflags v hv]
    · rfl
  have hat : Tags.dirtyAt s.params.icacheShift a.toNat s.xtag = true :=
    List.any_eq_true.2 ⟨u, hu, by simp [hdirty, hblock]⟩
  simp [State.fetchWord, State.checkAccess_of_reads (kind := .fetch) (by decide) h, hclash, hat, bind, Except.bind]

/-- A step whose first word's fetch stops, stops. -/
theorem step_of_fetch_fault {s : State} (hs : s.Starts) {f : Fault}
    (h : s.passBoundary.fetchWord s.passBoundary.pc = .error (.fault f)) : step s = .fault f := by
  have hwords : s.passBoundary.fetchWords = .error (.fault f) := by
    simp only [State.fetchWords, h, bind, Except.bind]
  rw [step_of_starts hs]
  simp only [State.runInstr, hwords]
  rfl

/-- Settles O9: a tag with other flags, or a dirty one in the word's block, stops the fetch. -/
theorem fetchUndefined : Obligations.FetchUndefined := by
  intro s hs hreads
  have hpass : s.passBoundary.Reads s.pc 2 2 := ⟨hreads.aligned, hreads.canonical, hreads.present⟩
  exact ⟨fun u hu hflags => step_of_fetch_fault hs (State.fetchWord_of_clash hpass hu hflags),
    fun hflags u hu hdirty hblock => step_of_fetch_fault hs (State.fetchWord_of_dirty hpass hflags hu hdirty hblock)⟩

end Sys2Proof.Machine
end

section
/-!
PROOFS. Arithmetic, comparisons and tests.
-/

namespace Sys2Proof.Machine

/-! Additions and subtractions as numbers. -/

/-- The number of a value given by an integer. -/
theorem toNat_ofInt_emod (w : Nat) (v : Int) : (BitVec.ofInt w v).toNat = (v % 2 ^ w).toNat := by
  rw [BitVec.toNat_ofInt]; norm_cast

theorem toNat_sub_emod {w : Nat} (a b : BitVec w) : (a - b).toNat = (((a.toNat : Int) - b.toNat) % 2 ^ w).toNat := by
  rw [← toNat_ofInt_emod]
  refine congrArg BitVec.toNat (BitVec.eq_of_toInt_eq ?_)
  rw [BitVec.toInt_sub, BitVec.toInt_ofInt, BitVec.toInt_eq_toNat_bmod a, BitVec.toInt_eq_toNat_bmod b]
  simp

theorem overflows_iff (w : Nat) (v : Int) : overflows w v = true ↔ v < -2 ^ (w - 1) ∨ 2 ^ (w - 1) - 1 < v := by
  simp [overflows]

/-- Settles O26: each sum or difference, as a number, is the exact one brought to the width of the registers. -/
theorem addAndSubtract : Obligations.AddAndSubtract := fun s m n => by
  refine ⟨⟨decodeWord_of_row rfl, decodeWord_of_row rfl, decodeWord_of_row rfl, decodeWord_of_row rfl, decodeWord_of_row rfl⟩,
    yields_of_setX rfl (BitVec.toNat_add _ _), ?addc, ?addv, yields_of_setX rfl (toNat_sub_emod _ _), ?subv⟩
  case addc =>
    exact yieldsWithT_of_setX (v := (addWithCarry (s.x n) (s.x m) s.t).1) rfl (BitVec.toNat_ofNat _ _) (decide_eq_true_iff)
  case addv =>
    exact yieldsWithT_of_setX (v := (addWithOverflow (s.x n) (s.x m)).1) rfl (toNat_ofInt_emod _ _) (overflows_iff _ _)
  case subv =>
    exact yieldsWithT_of_setX (v := (subWithOverflow (s.x n) (s.x m)).1) rfl (toNat_ofInt_emod _ _) (overflows_iff _ _)

/-- A negation as a difference from 0. -/
theorem toNat_neg_emod {w : Nat} (a : BitVec w) : (-a).toNat = ((-(a.toNat : Int)) % 2 ^ w).toNat := by
  rw [← BitVec.zero_sub, toNat_sub_emod]; simp

/-- A sum with a sign-extended immediate. -/
theorem toNat_add_signExtend {w v : Nat} (a : BitVec w) (b : BitVec v) (h : v ≤ w) :
    (a + b.signExtend w).toNat = (((a.toNat : Int) + b.toInt) % 2 ^ w).toNat := by
  rw [← toNat_ofInt_emod]
  exact congrArg BitVec.toNat (BitVec.eq_of_toInt_eq (by simp [BitVec.toInt_add, BitVec.toInt_signExtend_of_le h, BitVec.toInt_eq_toNat_bmod a]))

/-- A difference with a borrow borrows when it is negative. -/
theorem subWithBorrow_snd {w : Nat} (a b : BitVec w) (borrow : Bool) :
    (subWithBorrow a b borrow).2 = true ↔ (a.toNat : Int) - b.toNat - borrow.toNat < 0 := by
  simp only [subWithBorrow, decide_eq_true_eq]
  omega

/-- Settles O27. -/
theorem moreArithmetic : Obligations.MoreArithmetic := fun s m n imm => by
  refine ⟨yields_of_setX rfl (toNat_add_signExtend _ _ (by have := s.le_W; omega)), ?subc,
    yields_of_setX rfl (toNat_neg_emod _), ?negc, ?dt⟩
  case subc =>
    exact yieldsWithT_of_setX (v := (subWithBorrow (s.x n) (s.x m) s.t).1) rfl (toNat_ofInt_emod _ _) (subWithBorrow_snd _ _ _)
  case negc =>
    have hzero : ((0 : BitVec s.W).toNat : Int) - s.xNat m - s.t.toNat = -(s.xNat m : Int) - s.t.toNat := by simp
    refine yieldsWithT_of_setX (v := (subWithBorrow 0 (s.x m) s.t).1) rfl ?_ ?_
    · exact (toNat_ofInt_emod _ _).trans (by rw [← hzero]; rfl)
    · rw [← hzero]; exact subWithBorrow_snd _ _ _
  case dt =>
    have hone : (1 : BitVec s.W).toNat = 1 := by
      rcases s.W_cases with ⟨-, hw⟩ | ⟨-, hw⟩ <;> rw [hw] <;> rfl
    have hdiff := toNat_sub_emod (s.x n) 1
    refine yieldsWithT_of_setX (v := s.x n - 1) rfl (by rw [hdiff, hone]; rfl) ?_
    rw [beq_iff_eq, sub_eq_zero, ← BitVec.toNat_inj, hone]; rfl

/-! Comparisons. -/

/-- Settles O28: each comparison of the model is that of the numbers. -/
theorem comparisons : Obligations.Comparisons := fun s m n => by
  refine ⟨⟨decodeWord_of_row rfl, decodeWord_of_row rfl, decodeWord_of_row rfl, decodeWord_of_row rfl, decodeWord_of_row rfl⟩,
    setsT_of_putT rfl ?eq, setsT_of_putT rfl ?hs, setsT_of_putT rfl ?ge, setsT_of_putT rfl ?hi, setsT_of_putT rfl ?gt⟩
  case eq => rw [beq_iff_eq, ← BitVec.toNat_inj]; rfl
  case hs => exact BitVec.ule_iff_toNat_le
  case ge => exact BitVec.sle_iff_toInt_le
  case hi => exact BitVec.ult_iff_toNat_lt
  case gt => exact BitVec.slt_iff_toInt_lt

/-! Tests. -/

/-- No bit is common to two values exactly when their conjunction is 0. -/
theorem and_eq_zero_iff {w : Nat} (a b : BitVec w) :
    (a &&& b == 0) = true ↔ ∀ k < w, ¬ (a.getLsbD k = true ∧ b.getLsbD k = true) := by
  rw [beq_iff_eq]
  constructor
  · intro h k _ hk
    simpa [hk] using congrArg (·.getLsbD k) h
  · intro h
    refine BitVec.eq_of_getLsbD_eq fun k hk => ?_
    have := h k hk
    simp only [BitVec.getLsbD_and, BitVec.ofNat_eq_ofNat, BitVec.getLsbD_zero]
    simpa using this

/-- A byte of a number. -/
theorem toNat_byte {w : Nat} (v : BitVec w) (k : Nat) : (v.extractLsb' (8 * k) 8).toNat = v.toNat / 2 ^ (8 * k) % 256 := by
  simp [Nat.shiftRight_eq_div_pow]

/-- Two values have a byte in common exactly when some byte of their exclusive or is zero. -/
theorem someByteZero_xor {w : Nat} (a b : BitVec w) :
    someByteZero (a ^^^ b) = true ↔ ∃ k < w / 8, a.toNat / 2 ^ (8 * k) % 256 = b.toNat / 2 ^ (8 * k) % 256 := by
  simp only [someByteZero, List.any_eq_true, List.mem_range, beq_iff_eq]
  refine exists_congr fun k => and_congr_right fun _ => ?_
  rw [← toNat_byte, ← toNat_byte, BitVec.toNat_inj, BitVec.extractLsb'_xor, BitVec.xor_eq_zero_iff]

/-- Settles O29. -/
theorem tests : Obligations.Tests := fun s m n imm => by
  have hW := s.le_W
  refine ⟨setsT_of_putT rfl ?eqImm, setsT_of_putT rfl ?pz, setsT_of_putT rfl ?pl, setsT_of_putT rfl (and_eq_zero_iff _ _),
    setsT_of_putT rfl ?tstImm, setsT_of_putT rfl (someByteZero_xor _ _)⟩
  case eqImm =>
    rw [beq_iff_eq, ← BitVec.toInt_inj, BitVec.toInt_signExtend_of_le (by omega)]; rfl
  case pz =>
    rw [Bool.not_eq_true', BitVec.msb_eq_toInt, decide_eq_false_iff_not, not_lt]; rfl
  case pl =>
    rw [BitVec.slt_iff_toInt_lt]; simp; rfl
  case tstImm =>
    refine (and_eq_zero_iff _ _).trans ⟨fun h k hk => ?_, fun h k hk => ?_⟩
    · have := h k (by omega)
      simpa [State.xBit, show k < s.W by omega] using this
    · by_cases h8 : k < 8
      · simpa [State.xBit, hk] using h k h8
      · simp [BitVec.getLsbD_of_ge imm k (by omega)]

end Sys2Proof.Machine
end

section
/-!
PROOFS. Moves and extensions, the width flag and the cache instructions, division steps, shifts.
-/

namespace Sys2Proof.Machine

/-! Extensions and values joined from two parts. -/

/-- A zero extension of the low bits. -/
theorem toNat_zeroExtend {w : Nat} (v : BitVec w) {k : Nat} (h : k ≤ w) :
    ((v.setWidth k).setWidth w).toNat = v.toNat % 2 ^ k := by
  rw [BitVec.toNat_setWidth, BitVec.toNat_setWidth]
  exact Nat.mod_eq_of_lt ((Nat.mod_lt _ (by positivity)).trans_le (Nat.pow_le_pow_right (by norm_num) h))

/-- A sign extension of the low bits. -/
theorem toInt_signExtend_setWidth {w : Nat} (v : BitVec w) {k : Nat} (h : k ≤ w) :
    ((v.setWidth k).signExtend w).toInt = Int.bmod v.toNat (2 ^ k) := by
  rw [BitVec.toInt_signExtend_of_le h, BitVec.toInt_setWidth]

/-- Low bits joined to a value shifted left past them. -/
theorem toNat_shiftLeft_or {w : Nat} (v b : BitVec w) {k : Nat} (h : b.toNat < 2 ^ k) :
    ((v <<< k) ||| b).toNat = (v.toNat * 2 ^ k + b.toNat) % 2 ^ w := by
  have hdisjoint : (v <<< k) &&& b = 0#w := by
    refine BitVec.eq_of_getLsbD_eq fun j hj => ?_
    by_cases hk : j < k
    · simp [hk]
    · have : b.getLsbD j = false :=
        Nat.testBit_lt_two_pow (h.trans_le (Nat.pow_le_pow_right (by norm_num) (by omega)))
      simp [this]
  rw [← BitVec.add_eq_or_of_and_eq_zero _ _ hdisjoint, BitVec.toNat_add, BitVec.toNat_shiftLeft, Nat.shiftLeft_eq, Nat.mod_add_mod]

/-- Settles O31. -/
theorem movesAndExtensions : Obligations.MovesAndExtensions := fun s m n imm => by
  have hW := s.le_W
  refine ⟨yieldsBits_of_setX rfl ?not, yieldsBits_of_setX rfl ?and, yieldsBits_of_setX rfl ?xor, yieldsBits_of_setX rfl ?or,
    yields_of_setX rfl rfl, yields_of_setX rfl (toNat_zeroExtend _ (by omega)),
    yieldsInt_of_setX rfl (toInt_signExtend_setWidth _ (by omega)), yields_of_setX rfl (toNat_zeroExtend _ (by omega)),
    yieldsInt_of_setX rfl (toInt_signExtend_setWidth _ (by omega)), yields_of_setX rfl (toNat_zeroExtend _ hW),
    yieldsInt_of_setX rfl (toInt_signExtend_setWidth _ hW), yields_of_setX rfl ?movt, yields_of_setX rfl ?ldsh8⟩
  case not => intro k hk; simp [State.xBit, hk]
  case and => intro k hk; simp [State.xBit, hk]
  case xor => intro k hk; simp [State.xBit, hk]
  case or => intro k hk; simp [State.xBit, hk]
  case movt =>
    have hpos := s.W_pos
    cases s.t <;> simp [Nat.mod_eq_of_lt, Nat.one_lt_two_pow hpos.ne']
  case ldsh8 =>
    have himm : (imm.setWidth s.W).toNat = imm.toNat := BitVec.toNat_setWidth_of_le (by omega)
    rw [toNat_shiftLeft_or _ _ (by rw [himm]; exact imm.isLt), himm]
    rfl

/-! Footprints of two changes in a row. -/

/-- What two changes together may touch. -/
def Footprint.and (f g : Footprint) : Footprint :=
  ⟨f.regs ++ g.regs, f.others ++ g.others, f.specials ++ g.specials, f.srBits ++ g.srBits, f.fregs ++ g.fregs,
    f.stored ++ g.stored⟩

/-- Two changes in a row, the second of which leaves the general registers. -/
theorem Frame.andThen {f g : Footprint} {s t u : State} (h1 : Frame f s t) (h2 : Frame g t u) (hr : g.regs = [])
    (ho : g.others = []) : Frame (f.and g) s u :=
  h1.trans h2 (.inr ⟨hr, ho⟩) (by simp [Footprint.and, hr]) (by simp [Footprint.and, ho]) (by simp [Footprint.and])
    (by simp [Footprint.and]) (by simp [Footprint.and]) rfl

/-! The ends of an instruction after a part of its body. -/

/-- An instruction goes on where a part of its body answers. -/
theorem finish_of_ok {α : Type} {m : Except Abort α} {k : α → Except Abort State} {len : BitVec 64} {a : α} (h : m = .ok a) :
    finish (m >>= k) len = finish (k a) len := by rw [h]; rfl

/-- An instruction ends in a trap where a part of its body raises. -/
theorem finish_of_raise {α : Type} {m : Except Abort α} {k : α → Except Abort State} {len : BitVec 64} {c : Cause} {s : State}
    (h : m = .error (.raise c s)) : finish (m >>= k) len = trapEntry c s := by rw [h]; rfl

/-- An instruction is refused where a part of its body is. -/
theorem finish_of_refuse {α : Type} {m : Except Abort α} {k : α → Except Abort State} {len : BitVec 64} {r : Refusal}
    (h : m = .error (.refuse r)) : finish (m >>= k) len = .refused r := by rw [h]; rfl

/-- Settles O33. -/
theorem modeAndCache : Obligations.ModeAndCache := fun s n => by
  refine ⟨completes_of_next rfl (frame_putDQ s false) rfl rfl (by simp) (by simp),
    completes_of_next rfl (frame_putDQ s true) rfl rfl (by simp) ⟨by simp, State.W_of_wide (by simp [State.wide])⟩,
    completes_of_next (t := s) rfl (Frame.refl _ rfl s) rfl rfl rfl rfl, fun i hi hrun => ?tags, fun hrun => ?sleep⟩
  case tags =>
    have hexec : exec i s = .next (({ s with xtag := [] } : State).advance 2) := by
      simp only [List.mem_cons, List.not_mem_nil, or_false] at hi
      rcases hi with rfl | rfl
      · exact finish_of_ok (State.requirePrivilege_of_mayRun hrun)
      · exact finish_of_ok (State.requirePrivilege_of_mayRun hrun)
    exact ⟨_, hexec, (Frame.refl _ rfl _).advance 2, advances_advance 2 rfl rfl rfl⟩
  case sleep =>
    have hexec : exec .sleep s = .next (({ s with asleep := true } : State).advance 2) :=
      finish_of_ok (State.requirePrivilege_of_mayRun hrun)
    exact ⟨_, hexec, (Frame.refl _ rfl _).advance 2, advances_advance 2 rfl rfl rfl⟩

/-! Division. -/

theorem frame_putQ_putM_putT (s : State) (q m t : Bool) :
    Frame { srBits := [0, 8, 9] } s (((s.putQ q).putM m).putT t) :=
  (((frame_putQ s q).andThen (frame_putM _ m) rfl rfl).andThen (frame_putT _ t) rfl rfl).mono (by decide) (by decide) (by decide)
    (by decide) (by decide) rfl

theorem frame_putM_putQ_putT (s : State) (m q t : Bool) :
    Frame { srBits := [0, 8, 9] } s (((s.putM m).putQ q).putT t) :=
  (((frame_putM s m).andThen (frame_putQ _ q) rfl rfl).andThen (frame_putT _ t) rfl rfl).mono (by decide) (by decide) (by decide)
    (by decide) (by decide) rfl

theorem frame_setX_putQ_putT (s : State) (n : Reg) (v : BitVec s.W) (q t : Bool) :
    Frame { regs := [n], srBits := [0, 8] } s (((s.setX n v).putQ q).putT t) :=
  (((frame_setX s n v).andThen (frame_putQ _ q) rfl rfl).andThen (frame_putT _ t) rfl rfl).mono (by simp [Footprint.and])
    (by simp [Footprint.and]) (by simp [Footprint.and]) (by simp [Footprint.and]) (by simp [Footprint.and]) rfl

/-- One step of a non-restoring division, on numbers. -/
theorem divideStep_spec {w : Nat} (rn rm : BitVec w) (q m t : Bool) (hw : 0 < w) :
    ∃ r r2 : Nat, ∃ c : Bool, r = (2 * rn.toNat + t.toNat) % 2 ^ w ∧
      (q = m → r2 = (((r : Int) - rm.toNat) % 2 ^ w).toNat ∧ (c = true ↔ r < r2)) ∧
      (q ≠ m → r2 = (r + rm.toNat) % 2 ^ w ∧ (c = true ↔ r2 < r)) ∧
      (divideStep rn rm q m t).1.toNat = r2 ∧ (divideStep rn rm q m t).2.1 = (rn.msb ^^ c ^^ m) ∧
      (divideStep rn rm q m t).2.2 = ((divideStep rn rm q m t).2.1 == m) := by
  have ht : (BitVec.ofNat w t.toNat).toNat = t.toNat := by
    rw [BitVec.toNat_ofNat]
    exact Nat.mod_eq_of_lt ((Bool.toNat_lt t).trans_le (Nat.le_self_pow hw.ne' 2))
  have hr := toNat_shiftLeft_or rn (BitVec.ofNat w t.toNat) (k := 1) (by rw [ht]; exact Bool.toNat_lt t)
  rw [ht, pow_one, mul_comm] at hr
  refine ⟨_, _, _, hr, fun h => ?_, fun h => ?_, rfl, rfl, rfl⟩
  · simp only [divideStep, h, if_true, toNat_sub_emod, decide_eq_true_eq, true_and]
  · simp only [divideStep, h, if_false, BitVec.toNat_add, decide_eq_true_eq, true_and]

/-- Settles O34. -/
theorem divisionSteps : Obligations.DivisionSteps := fun s m n => by
  refine ⟨completes_of_next rfl (frame_putM_putQ_putT s false false false) rfl rfl (by simp) (by simp),
    completes_of_next rfl (frame_putQ_putM_putT s (s.x n).msb (s.x m).msb ((s.x n).msb ^^ (s.x m).msb)) rfl rfl (by simp) ?div0s, ?div1⟩
  case div0s =>
    refine ⟨?_, ?_, ?_⟩
    · simp [BitVec.msb_eq_toInt, State.xInt]
    · simp [BitVec.msb_eq_toInt, State.xInt]
    · simp
  case div1 =>
    obtain ⟨r, r2, c, hr, heq, hne, hr2, hq, ht⟩ := divideStep_spec (s.x n) (s.x m) s.q s.m s.t s.W_pos
    refine completes_of_next (t := ((s.setX n (divideStep (s.x n) (s.x m) s.q s.m s.t).1).putQ
      (divideStep (s.x n) (s.x m) s.q s.m s.t).2.1).putT (divideStep (s.x n) (s.x m) s.q s.m s.t).2.2)
      rfl (frame_setX_putQ_putT ..) rfl rfl (by simp) ⟨r, r2, c, hr, heq, hne, ?_, ?_, ?_⟩
    · rw [State.xNatIn_advance, ← hr2]
      exact State.xNatIn_setX s n _
    · rw [State.advance_q, State.putT_q, State.putQ_q, hq, BitVec.msb_eq_toInt]; rfl
    · rw [State.advance_t, State.putT_t, ht, beq_iff_eq, State.advance_q, State.putT_q, State.putQ_q]

/-! Shifts. -/

theorem shiftLeftIn_fst {w : Nat} (v : BitVec w) (bit : Bool) (hw : 0 < w) :
    (shiftLeftIn v bit).1.toNat = 2 * v.toNat % 2 ^ w + bit.toNat := by
  have hbit : (BitVec.ofNat w bit.toNat).toNat = bit.toNat := by
    rw [BitVec.toNat_ofNat]
    exact Nat.mod_eq_of_lt ((Bool.toNat_lt bit).trans_le (Nat.le_self_pow hw.ne' 2))
  have hlt := Bool.toNat_lt bit
  obtain ⟨k, rfl⟩ : ∃ k, w = k + 1 := ⟨w - 1, by omega⟩
  rw [shiftLeftIn, toNat_shiftLeft_or _ _ (k := 1) (by rw [hbit]; exact hlt), hbit, pow_one,
    show 2 ^ (k + 1) = 2 * 2 ^ k by ring, Nat.mod_mul, Nat.mod_mul, show (v.toNat * 2 + bit.toNat) / 2 = v.toNat by omega,
    show 2 * v.toNat / 2 = v.toNat by omega]
  omega

theorem shiftLeftIn_snd {w : Nat} (v : BitVec w) (bit : Bool) :
    (shiftLeftIn v bit).2 = true ↔ 2 ^ (w - 1) ≤ v.toNat := by
  simp [shiftLeftIn, BitVec.msb_eq_decide]

theorem shiftRightIn_fst {w : Nat} (v : BitVec w) (bit : Bool) (hw : 0 < w) :
    (shiftRightIn v bit).1.toNat = v.toNat / 2 + bit.toNat * 2 ^ (w - 1) := by
  obtain ⟨k, rfl⟩ : ∃ k, w = k + 1 := ⟨w - 1, by omega⟩
  have hbit := Bool.toNat_lt bit
  have hv := v.isLt
  have hhigh : (BitVec.ofNat (k + 1) bit.toNat <<< k).toNat = bit.toNat <<< k := by
    rw [BitVec.toNat_shiftLeft, BitVec.toNat_ofNat, Nat.shiftLeft_eq, Nat.shiftLeft_eq, Nat.mod_mul_mod]
    refine Nat.mod_eq_of_lt ?_
    rw [pow_succ]; nlinarith [Nat.two_pow_pos k]
  rw [shiftRightIn, BitVec.toNat_or, Nat.add_sub_cancel, hhigh, BitVec.toNat_ushiftRight, Nat.or_comm,
    ← Nat.shiftLeft_add_eq_or_of_lt, Nat.shiftLeft_eq, Nat.shiftRight_one, Nat.add_comm]
  rw [Nat.shiftRight_one, pow_succ] at *
  omega

theorem shiftRightIn_snd {w : Nat} (v : BitVec w) (bit : Bool) : (shiftRightIn v bit).2 = true ↔ v.toNat % 2 = 1 := by
  simp [shiftRightIn, BitVec.getLsbD, Nat.testBit_zero]

/-- Half of a signed number, as the shift right that keeps the sign gives it. -/
theorem toNat_half_toInt {w : Nat} (v : BitVec w) (hw : 0 < w) :
    v.toNat / 2 + v.msb.toNat * 2 ^ (w - 1) = (v.toInt / 2 % 2 ^ w).toNat := by
  obtain ⟨k, rfl⟩ : ∃ k, w = k + 1 := ⟨w - 1, by omega⟩
  have hpow : (2 : Int) ^ (k + 1) = 2 * (2 ^ k : Nat) := by push_cast; ring
  have hnat : 2 ^ (k + 1) = 2 * 2 ^ k := by ring
  have hv : v.toNat < 2 * 2 ^ k := hnat ▸ v.isLt
  rw [BitVec.toInt_eq_toNat_cond, hpow, BitVec.msb_eq_decide, Nat.add_sub_cancel, hnat]
  clear hnat hpow
  generalize 2 ^ k = p at *
  by_cases h : p ≤ v.toNat
  · rw [decide_eq_true h, if_neg (by omega)]
    rw [← Int.add_emod_right, Int.emod_eq_of_lt (by push_cast; omega) (by push_cast; omega)]
    simp; omega
  · rw [decide_eq_false h, if_pos (by omega), Int.emod_eq_of_lt (by omega) (by omega)]
    simp; omega

/-- The top bit as a quotient. -/
theorem toNat_msb {w : Nat} (v : BitVec w) (hw : 0 < w) : v.msb.toNat = v.toNat / 2 ^ (w - 1) := by
  obtain ⟨k, rfl⟩ : ∃ k, w = k + 1 := ⟨w - 1, by omega⟩
  have hv := v.isLt
  rw [BitVec.msb_eq_decide, Nat.add_sub_cancel]
  rw [pow_succ] at hv
  by_cases h : 2 ^ k ≤ v.toNat
  · rw [decide_eq_true h, Nat.div_eq_of_lt_le (k := 1) (by omega) (by omega)]; rfl
  · rw [decide_eq_false h, Nat.div_eq_of_lt (by omega)]; rfl

/-- An instruction that shifts one bit into the bottom. -/
theorem yieldsWithT_of_shiftLeftIn {i : Instr} {s : State} {n : Reg} {bit : Bool}
    (h : exec i s = s.shiftInto n (shiftLeftIn (s.x n) bit)) :
    YieldsWithT i s n (2 * s.xNat n % 2 ^ s.W + bit.toNat) (2 ^ (s.W - 1) ≤ s.xNat n) :=
  yieldsWithT_of_setX h (shiftLeftIn_fst _ _ s.W_pos) (shiftLeftIn_snd _ _)

/-- An instruction that shifts one bit into the top. -/
theorem yieldsWithT_of_shiftRightIn {i : Instr} {s : State} {n : Reg} {bit : Bool}
    (h : exec i s = s.shiftInto n (shiftRightIn (s.x n) bit)) :
    YieldsWithT i s n (s.xNat n / 2 + bit.toNat * 2 ^ (s.W - 1)) (s.xNat n % 2 = 1) :=
  yieldsWithT_of_setX h (shiftRightIn_fst _ _ s.W_pos) (shiftRightIn_snd _ _)

/-- Settles O35. -/
theorem shifts : Obligations.Shifts := fun s n => by
  have hlow : ((s.x n).getLsbD 0).toNat = s.xNat n % 2 := by
    simp only [BitVec.getLsbD, Nat.testBit_zero, State.xNat]
    rcases Nat.mod_two_eq_zero_or_one (s.x n).toNat with h | h <;> simp [h]
  refine ⟨yieldsWithT_of_shiftLeftIn (bit := false) rfl, yieldsWithT_of_shiftLeftIn (bit := false) rfl, ?shlr, ?shar, ?rotl,
    yieldsWithT_of_shiftLeftIn rfl, ?rotr, yieldsWithT_of_shiftRightIn rfl,
    yields_of_setX rfl (by simp [Nat.shiftLeft_eq, State.xNat]), yields_of_setX rfl (by simp [Nat.shiftLeft_eq, State.xNat]),
    yields_of_setX rfl (by simp [Nat.shiftLeft_eq, State.xNat]), yields_of_setX rfl (by simp [Nat.shiftRight_eq_div_pow, State.xNat]),
    yields_of_setX rfl (by simp [Nat.shiftRight_eq_div_pow, State.xNat]),
    yields_of_setX rfl (by simp [Nat.shiftRight_eq_div_pow, State.xNat])⟩
  case shlr => simpa using yieldsWithT_of_shiftRightIn (i := .shlr n) (s := s) (bit := false) rfl
  case shar =>
    have := yieldsWithT_of_shiftRightIn (i := .shar n) (s := s) (bit := (s.x n).msb) rfl
    rwa [State.xNat, toNat_half_toInt _ s.W_pos] at this
  case rotl =>
    have := yieldsWithT_of_shiftLeftIn (i := .rotl n) (s := s) (bit := (s.x n).msb) rfl
    rwa [toNat_msb _ s.W_pos] at this
  case rotr =>
    have := yieldsWithT_of_shiftRightIn (i := .rotr n) (s := s) (bit := (s.x n).getLsbD 0) rfl
    rwa [hlow] at this

end Sys2Proof.Machine
end

section
/-!
PROOFS. Dynamic shifts, exchanges of bytes and halves, and the multiplications of half registers.
-/

namespace Sys2Proof.Machine

/-! Dynamic shifts. -/

theorem msb_iff_toInt_neg {w : Nat} (v : BitVec w) : v.msb = true ↔ v.toInt < 0 := by
  rw [BitVec.msb_eq_toInt, decide_eq_true_iff]

theorem msb_of_toInt_nonneg {w : Nat} {v : BitVec w} (h : 0 ≤ v.toInt) : v.msb = false := by
  rw [Bool.eq_false_iff, ne_eq, msb_iff_toInt_neg]; omega

theorem shiftArithmetic_of_nonneg {w : Nat} {v c : BitVec w} (h : 0 ≤ c.toInt) :
    (shiftArithmetic v c).toNat = v.toNat * 2 ^ (c.toNat % w) % 2 ^ w := by
  rw [shiftArithmetic, if_pos (msb_of_toInt_nonneg h), BitVec.toNat_shiftLeft, Nat.shiftLeft_eq, shiftCount]

theorem shiftLogical_of_nonneg {w : Nat} {v c : BitVec w} (h : 0 ≤ c.toInt) :
    (shiftLogical v c).toNat = v.toNat * 2 ^ (c.toNat % w) % 2 ^ w := by
  rw [shiftLogical, if_pos (msb_of_toInt_nonneg h), BitVec.toNat_shiftLeft, Nat.shiftLeft_eq, shiftCount]

theorem shiftArithmetic_of_full {w : Nat} {v c : BitVec w} (hw : 0 < w) (h : c.toInt < 0) (hc : c.toNat % w = 0) :
    (shiftArithmetic v c).toInt = if v.toInt < 0 then -1 else 0 := by
  rw [shiftArithmetic, shiftCount, if_neg (by simp [(msb_iff_toInt_neg c).2 h]), if_pos hc]
  by_cases hv : v.toInt < 0
  · rw [if_pos ((msb_iff_toInt_neg v).2 hv), if_pos hv, BitVec.toInt_allOnes, if_pos hw]
  · rw [if_neg (fun e => hv ((msb_iff_toInt_neg v).1 e)), if_neg hv]; exact BitVec.toInt_zero

theorem shiftLogical_of_full {w : Nat} {v c : BitVec w} (h : c.toInt < 0) (hc : c.toNat % w = 0) :
    (shiftLogical v c).toNat = 0 := by
  rw [shiftLogical, shiftCount, if_neg (by simp [(msb_iff_toInt_neg c).2 h]), if_pos hc]; exact BitVec.toNat_zero

theorem shiftArithmetic_of_right {w : Nat} {v c : BitVec w} (h : c.toInt < 0) (hc : c.toNat % w ≠ 0) :
    (shiftArithmetic v c).toInt = v.toInt / 2 ^ (w - c.toNat % w) := by
  rw [shiftArithmetic, shiftCount, if_neg (by simp [(msb_iff_toInt_neg c).2 h]), if_neg hc, BitVec.toInt_sshiftRight,
    Int.shiftRight_eq_div_pow]
  norm_cast

theorem shiftLogical_of_right {w : Nat} {v c : BitVec w} (h : c.toInt < 0) (hc : c.toNat % w ≠ 0) :
    (shiftLogical v c).toNat = v.toNat / 2 ^ (w - c.toNat % w) := by
  rw [shiftLogical, shiftCount, if_neg (by simp [(msb_iff_toInt_neg c).2 h]), if_neg hc, BitVec.toNat_ushiftRight,
    Nat.shiftRight_eq_div_pow]

/-- Settles O36. -/
theorem dynamicShifts : Obligations.DynamicShifts := fun s _ _ =>
  ⟨fun h => ⟨yields_of_setX rfl (shiftArithmetic_of_nonneg h), yields_of_setX rfl (shiftLogical_of_nonneg h)⟩,
    fun h hc => ⟨yieldsInt_of_setX rfl (shiftArithmetic_of_full s.W_pos h hc), yields_of_setX rfl (shiftLogical_of_full h hc)⟩,
    fun h hc => ⟨yieldsInt_of_setX rfl (shiftArithmetic_of_right h hc), yields_of_setX rfl (shiftLogical_of_right h hc)⟩⟩

/-! Exchanges. -/

/-- A number of two digits is below the square of the base. -/
theorem two_digits_lt {a b p : Nat} (ha : a < p) (hb : b < p) : a * p + b < p * p := by
  have := Nat.mul_le_mul_right p (Nat.succ_le_of_lt ha)
  rw [Nat.succ_mul] at this
  omega

/-- The exchange of the two low parts of `k` bits of a value. -/
theorem toNat_swapLow {w : Nat} (v mask : BitVec w) {k : Nat} (hmask : mask.toNat = 2 ^ k - 1) (hk : 2 * k ≤ w) :
    (((v >>> (2 * k)) <<< (2 * k)) ||| ((v &&& mask) <<< k) ||| ((v >>> k) &&& mask)).toNat =
      v.toNat / 2 ^ (2 * k) * 2 ^ (2 * k) + v.toNat % 2 ^ k * 2 ^ k + v.toNat / 2 ^ k % 2 ^ k := by
  have hwide : 2 ^ (2 * k) ≤ 2 ^ w := Nat.pow_le_pow_right (by norm_num) hk
  have hlow : v.toNat % 2 ^ k < 2 ^ k := Nat.mod_lt _ (by positivity)
  have hnext : v.toNat / 2 ^ k % 2 ^ k < 2 ^ k := Nat.mod_lt _ (by positivity)
  have hparts : v.toNat % 2 ^ k * 2 ^ k + v.toNat / 2 ^ k % 2 ^ k < 2 ^ (2 * k) := by
    rw [two_mul, pow_add]; exact two_digits_lt hlow hnext
  have hlast : ((v >>> k) &&& mask).toNat = v.toNat / 2 ^ k % 2 ^ k := by
    rw [BitVec.toNat_and, hmask, Nat.and_two_pow_sub_one_eq_mod, BitVec.toNat_ushiftRight, Nat.shiftRight_eq_div_pow]
  have hpair : (((v &&& mask) <<< k) ||| ((v >>> k) &&& mask)).toNat = v.toNat % 2 ^ k * 2 ^ k + v.toNat / 2 ^ k % 2 ^ k := by
    rw [toNat_shiftLeft_or _ _ (by rw [hlast]; exact hnext), hlast, BitVec.toNat_and, hmask, Nat.and_two_pow_sub_one_eq_mod]
    exact Nat.mod_eq_of_lt (hparts.trans_le hwide)
  have hhigh : v.toNat / 2 ^ (2 * k) * 2 ^ (2 * k) + 2 ^ (2 * k) ≤ 2 ^ w := by
    have hquot : v.toNat / 2 ^ (2 * k) < 2 ^ (w - 2 * k) :=
      Nat.div_lt_of_lt_mul (by rw [← pow_add, Nat.add_sub_cancel' hk]; exact v.isLt)
    calc v.toNat / 2 ^ (2 * k) * 2 ^ (2 * k) + 2 ^ (2 * k) = (v.toNat / 2 ^ (2 * k) + 1) * 2 ^ (2 * k) := (Nat.succ_mul _ _).symm
      _ ≤ 2 ^ (w - 2 * k) * 2 ^ (2 * k) := Nat.mul_le_mul_right _ hquot
      _ = 2 ^ w := by rw [← pow_add, Nat.sub_add_cancel hk]
  rw [BitVec.or_assoc, toNat_shiftLeft_or _ _ (by rw [hpair]; exact hparts), hpair, BitVec.toNat_ushiftRight,
    Nat.shiftRight_eq_div_pow, Nat.add_assoc]
  exact Nat.mod_eq_of_lt (by omega)

/-- The low half of a value above the high half of another. -/
theorem toNat_halves {w h : Nat} (hw : w = 2 * h) (a b : BitVec w) :
    ((a <<< h) ||| (b >>> h)).toNat = a.toNat % 2 ^ h * 2 ^ h + b.toNat / 2 ^ h := by
  subst hw
  have hpow : 2 ^ (2 * h) = 2 ^ h * 2 ^ h := by rw [two_mul, pow_add]
  have hb : (b >>> h).toNat = b.toNat / 2 ^ h := by rw [BitVec.toNat_ushiftRight, Nat.shiftRight_eq_div_pow]
  have hlt : b.toNat / 2 ^ h < 2 ^ h := Nat.div_lt_of_lt_mul (by rw [← hpow]; exact b.isLt)
  have hquot : (a.toNat * 2 ^ h + b.toNat / 2 ^ h) / 2 ^ h = a.toNat := by
    rw [Nat.add_comm, Nat.add_mul_div_right _ _ (Nat.two_pow_pos h), Nat.div_eq_of_lt hlt, Nat.zero_add]
  rw [toNat_shiftLeft_or _ _ (by rw [hb]; exact hlt), hb, hpow, Nat.mod_mul, hquot, Nat.add_comm, Nat.mul_comm (2 ^ h)]
  rw [Nat.add_comm (a.toNat * _), Nat.add_mul_mod_self_right, Nat.mod_eq_of_lt hlt]

/-- Bit `j` of the low `w` bits of a register, below 32. -/
theorem Reg64.getLsbD_low (r : Reg64) {w j : Nat} (hw : 32 ≤ w) (hj : j < 32) : (r.low w).getLsbD j = r.lo.getLsbD j := by
  unfold Reg64.low
  split
  · simp [show j < w by omega]
  · rw [BitVec.getLsbD_setWidth, BitVec.getLsbD_append, if_pos hj, decide_eq_true (by omega), Bool.true_and]

/-- A register whose bits 31:0 are replaced, below bit 32. -/
theorem State.getLsbD_x_setXLow (s : State) (n : Reg) (v : BitVec 32) {j : Nat} (hj : j < 32) :
    ((s.setXLow n v).x n).getLsbD j = v.getLsbD j := by
  rw [State.x, Reg64.getLsbD_low _ (State.le_W _) hj]
  exact congrArg (fun r : Reg64 => r.lo.getLsbD j) (s.reg_putReg_self n ⟨Config.freeWord32 s.draws, v⟩)

theorem byte_reverseBytes32 (v : BitVec 32) {k : Nat} (hk : k < 4) :
    (reverseBytes32 v).extractLsb' (8 * k) 8 = v.extractLsb' (8 * (3 - k)) 8 := by
  refine BitVec.eq_of_getLsbD_eq fun j hj => ?_
  simp only [reverseBytes32, BitVec.getLsbD_append, BitVec.getLsbD_extractLsb', hj, decide_true, Bool.true_and]
  interval_cases k <;> grind

theorem byte_reverseBytes64 (v : BitVec 64) {k : Nat} (hk : k < 8) :
    (reverseBytes64 v).extractLsb' (8 * k) 8 = v.extractLsb' (8 * (7 - k)) 8 := by
  refine BitVec.eq_of_getLsbD_eq fun j hj => ?_
  simp only [reverseBytes64, reverseBytes32, BitVec.getLsbD_append, BitVec.getLsbD_extractLsb', hj, decide_true, Bool.true_and]
  interval_cases k <;> grind

/-- Byte `k` of a general register, as a number. -/
theorem State.byte_xNat (s : State) (n : Reg) (k : Nat) :
    s.xNat n / 2 ^ (8 * k) % 256 = ((s.x n).extractLsb' (8 * k) 8).toNat := (toNat_byte _ _).symm

/-- A byte below bit 32 does not see a width of 32 or more. -/
theorem byte_setWidth {w : Nat} (v : BitVec w) {k u : Nat} (hk : 8 * k + 8 ≤ u) :
    (v.setWidth u).extractLsb' (8 * k) 8 = v.extractLsb' (8 * k) 8 := by
  refine BitVec.eq_of_getLsbD_eq fun j hj => ?_
  simp [show 8 * k + j < u by omega]

theorem completes_bswapL (s : State) (n : Reg) : Completes (.bswapL n) s { regs := [n] } fun t =>
    ∀ k < 4, t.xNat n / 2 ^ (8 * k) % 256 = s.xNat n / 2 ^ (8 * (3 - k)) % 256 := by
  refine completes_of_next (t := s.setXLow n (reverseBytes32 ((s.x n).setWidth 32))) rfl (frame_setXLow s n _) rfl rfl rfl
    fun k hk => ?_
  rw [State.byte_xNat, State.byte_xNat, ← byte_setWidth (s.x n) (u := 32) (by omega), ← byte_reverseBytes32 _ hk]
  refine congrArg BitVec.toNat (BitVec.eq_of_getLsbD_eq fun j hj => ?_)
  rw [BitVec.getLsbD_extractLsb', BitVec.getLsbD_extractLsb']
  exact congrArg _ (State.getLsbD_x_setXLow s n _ (by omega))

/-- An exchange that has a value only in 64 bits. -/
theorem completes_of_wide {i : Instr} {s : State} {n : Reg} {v : BitVec 64} {Q : State → Prop}
    (h : exec i s = .next ((if s.wide then s.setX n v else s.setXFree n).advance 2))
    (hq : s.wide = true → Q ((s.setX n v).advance 2)) :
    Completes i s { regs := [n] } fun t => s.wide = true → Q t := by
  by_cases hw : s.wide = true
  · rw [if_pos hw] at h
    exact completes_of_next h (frame_setX s n v) rfl rfl rfl hq
  · rw [if_neg hw] at h
    exact completes_of_next h (frame_setXFree s n) rfl rfl rfl fun h' => absurd h' hw

/-- A general register in 64 bits after a write of 64 bits. -/
theorem State.xNat_setX_wide {s : State} (hw : s.wide = true) (n : Reg) (v : BitVec 64) : (s.setX n v).xNat n = v.toNat := by
  rw [State.xNat_setX_self, State.W_of_wide hw, Nat.mod_eq_of_lt v.isLt]

theorem completes_bswapQ (s : State) (n : Reg) : Completes (.bswapQ n) s { regs := [n] } fun t =>
    s.wide = true → ∀ k < 8, t.xNat n / 2 ^ (8 * k) % 256 = s.xNat n / 2 ^ (8 * (7 - k)) % 256 := by
  refine completes_of_wide (v := reverseBytes64 ((s.x n).setWidth 64)) (n := n)
    (Q := fun t => ∀ k < 8, t.xNat n / 2 ^ (8 * k) % 256 = s.xNat n / 2 ^ (8 * (7 - k)) % 256) rfl fun hw k hk => ?_
  rw [State.advance_xNat, State.xNat_setX_wide hw, State.byte_xNat, ← byte_setWidth (s.x n) (u := 64) (by omega),
    ← byte_reverseBytes64 _ hk, toNat_byte]

theorem completes_swapL (s : State) (n : Reg) : Completes (.swapL n) s { regs := [n] } fun t =>
    s.wide = true → t.xNat n = s.xNat n % 2 ^ 32 * 2 ^ 32 + s.xNat n / 2 ^ 32 := by
  refine completes_of_wide (n := n) (Q := fun t => t.xNat n = s.xNat n % 2 ^ 32 * 2 ^ 32 + s.xNat n / 2 ^ 32)
    (v := ((s.x n).setWidth 64).extractLsb' 0 32 ++ ((s.x n).setWidth 64).extractLsb' 32 32) rfl fun hw => ?_
  have hx : ((s.x n).setWidth 64).toNat = s.xNat n := BitVec.toNat_setWidth_of_le s.W_le
  have hlt : s.xNat n < 2 ^ 64 := by simpa [State.W_of_wide hw] using s.xNat_lt n
  rw [State.advance_xNat, State.xNat_setX_wide hw, BitVec.toNat_append, ← Nat.shiftLeft_add_eq_or_of_lt (BitVec.isLt _),
    BitVec.extractLsb'_toNat, BitVec.extractLsb'_toNat, hx, Nat.shiftLeft_eq, Nat.shiftRight_eq_div_pow]
  omega

/-- Settles O37. -/
theorem exchanges : Obligations.Exchanges := fun s m n => by
  have hW := s.le_W
  have hmask : ∀ k, k ≤ 16 → (BitVec.ofNat s.W (2 ^ k - 1)).toNat = 2 ^ k - 1 := fun k hk => by
    have hle : 2 ^ k ≤ 2 ^ s.W := Nat.pow_le_pow_right (by norm_num) (by omega)
    have hpos := Nat.two_pow_pos k
    rw [BitVec.toNat_ofNat, Nat.mod_eq_of_lt (by omega)]
  have heven : s.W = 2 * (s.W / 2) := by rcases s.W_cases with ⟨-, hw⟩ | ⟨-, hw⟩ <;> rw [hw]
  exact ⟨yields_of_setX rfl (toNat_swapLow (k := 8) _ 0xFF (hmask 8 (by omega)) (by omega)),
    yields_of_setX rfl (toNat_swapLow (k := 16) _ 0xFFFF (hmask 16 (by omega)) (by omega)),
    yields_of_setX rfl (toNat_halves heven _ _), completes_bswapL s n, completes_bswapQ s n, completes_swapL s n⟩

/-! Half multiplications. -/

/-- A signed product in twice the width of its operands is exact. -/
theorem toInt_signExtend_mul_signExtend {w : Nat} (hw : 0 < w) (a b : BitVec w) :
    (a.signExtend (2 * w) * b.signExtend (2 * w)).toInt = a.toInt * b.toInt := by
  have hpow : (2 : Int) ^ (2 * w) = 2 ^ w * 2 ^ w := by rw [two_mul, pow_add]
  have ha1 := BitVec.le_two_mul_toInt (x := a)
  have ha2 := BitVec.two_mul_toInt_lt (x := a)
  have hb1 := BitVec.le_two_mul_toInt (x := b)
  have hb2 := BitVec.two_mul_toInt_lt (x := b)
  rw [BitVec.toInt_mul, BitVec.toInt_signExtend_of_le (by omega), BitVec.toInt_signExtend_of_le (by omega)]
  have hbound : |2 * a.toInt * (2 * b.toInt)| ≤ 2 ^ w * 2 ^ w := by
    rw [abs_mul]
    exact mul_le_mul (abs_le.2 ⟨ha1, ha2.le⟩) (abs_le.2 ⟨hb1, hb2.le⟩) (abs_nonneg _) (by positivity)
  obtain ⟨hlow, hhigh⟩ := abs_le.1 hbound
  have hpos : (0 : Int) < 2 ^ w * 2 ^ w := by positivity
  refine Int.bmod_eq_of_le_mul_two ?_ ?_ <;> push_cast <;> rw [hpow] <;> linarith

/-- A residue of a sign-extended value. -/
theorem toNat_signExtend_of_le {w v : Nat} (a : BitVec w) (h : w ≤ v) : (a.signExtend v).toNat = (a.toInt % 2 ^ v).toNat := by
  rw [← toNat_ofInt_emod]
  exact congrArg BitVec.toNat (BitVec.eq_of_toInt_eq (by
    rw [BitVec.toInt_signExtend_of_le h, BitVec.toInt_ofInt, ← BitVec.toInt_signExtend_of_le h, BitVec.toInt_bmod_cancel]))

theorem puts_muluWl (s : State) (m n : Reg) {k : Nat} (hk : 8 * s.szWL = k) (hle : 2 * k ≤ s.W) :
    Puts (.muluWl m n) s .macl (s.xNat n % 2 ^ k * (s.xNat m % 2 ^ k)) := by
  subst hk
  refine puts_of_writeSpecial (by decide) rfl ?_
  rw [BitVec.toNat_setWidth_of_le hle, toNat_setWidth_mul_setWidth, BitVec.toNat_setWidth, BitVec.toNat_setWidth]
  rfl

theorem puts_mulsWl (s : State) (m n : Reg) {k : Nat} (hk : 8 * s.szWL = k) (hpos : 0 < k) (hle : 2 * k ≤ s.W) :
    Puts (.mulsWl m n) s .macl (Int.bmod (s.xNat n) (2 ^ k) * Int.bmod (s.xNat m) (2 ^ k) % 2 ^ s.W).toNat := by
  subst hk
  refine puts_of_writeSpecial (by decide) rfl ?_
  rw [toNat_signExtend_of_le _ hle, toInt_signExtend_mul_signExtend hpos, BitVec.toInt_setWidth, BitVec.toInt_setWidth]
  rfl

/-- Settles O39. -/
theorem halfMultiplications : Obligations.HalfMultiplications := by
  rintro s m n k rfl
  have hk : 8 * s.szWL = if s.dq then 32 else 16 := by rw [State.szWL]; split <;> rfl
  have hle : 2 * (if s.dq then 32 else 16) ≤ s.W := by
    have hW := s.le_W
    split
    · next hdq => rw [State.W_of_wide (by simp [State.wide, hdq])]
    · exact hW
  have hpos : 0 < (if s.dq then 32 else 16) := by split <;> norm_num
  refine ⟨puts_muluWl s m n hk hle, puts_mulsWl s m n hk hpos hle,
    completes_of_next (t := (s.writeSpecial .mach (0 : BitVec s.W)).writeSpecial .macl (0 : BitVec s.W)) rfl
      ((frame_writeSpecial s (by decide) _).andThen (frame_writeSpecial _ (by decide) _) rfl rfl) rfl rfl rfl ⟨?_, ?_⟩⟩
  · refine wrote_advance (wrote_writeSpecial_of_ne ?_ (by decide) _)
    simpa using s.wrote_writeSpecial .mach (0 : BitVec s.W)
  · refine wrote_advance ?_
    simpa using wrote_writeSpecial_of_eq (s := s) (t := s.writeSpecial .mach (0 : BitVec s.W)) (r := .macl) rfl rfl (0 : BitVec s.W)

end Sys2Proof.Machine
end

section
/-!
PROOFS. Loads and stores of general registers, the byte instructions, and compare and swap.
-/

namespace Sys2Proof.Machine

/-! Loads and stores at one address. -/

/-- A displacement in bytes. -/
theorem State.offset_one (s : State) {w : Nat} (d : BitVec w) : s.offset 1 d = BitVec.ofNat s.W d.toNat := by
  rw [State.offset, Nat.one_mul]

/-- Settles O41. -/
theorem indexedLoads : Obligations.IndexedLoads := fun s _ _ =>
  ⟨⟨decodeWord_of_row rfl, decodeWord_of_row rfl, decodeWord_of_row rfl, decodeWord_of_row rfl, decodeWord_of_row rfl⟩,
    loads_of_loadInto rfl (s.W_le_of_le (by norm_num)), loads_of_loadInto rfl s.szWQ_le,
    loads_of_loadInto rfl (s.W_le_of_le (by norm_num)), loads_of_loadInto rfl (s.W_le_of_le (by norm_num)),
    loads_of_loadInto rfl (s.W_le_of_le (by norm_num))⟩

/-- Settles O42. -/
theorem otherLoads : Obligations.OtherLoads := by
  rintro s m n d4 d8 q rfl
  have hB : 8 * 1 ≤ s.W := s.W_le_of_le (by norm_num)
  have hL : 8 * 4 ≤ s.W := s.W_le_of_le (by norm_num)
  rw [← State.offset_one s d4, ← State.offset_one s d8]
  exact ⟨loads_of_loadInto rfl hB, loads_of_loadInto rfl s.szWQ_le, loads_of_loadInto rfl hL, loads_of_loadInto rfl hL,
    loads_of_loadInto rfl hB, loads_of_loadInto rfl s.szWQ_le, loads_of_loadInto rfl s.szWQ_le, loads_of_loadInto rfl hB,
    loads_of_loadInto rfl s.szWQ_le, loads_of_loadInto rfl hL⟩

/-- Settles O43. -/
theorem postIncrementLoads : Obligations.PostIncrementLoads := fun s _ _ =>
  ⟨pops_of_popInto rfl (s.W_le_of_le (by norm_num)), pops_of_popInto rfl s.szWQ_le,
    pops_of_popInto rfl (s.W_le_of_le (by norm_num))⟩

/-- Settles O44. -/
theorem plainStores : Obligations.PlainStores := fun _ _ _ hm =>
  ⟨⟨decodeWord_of_row rfl, decodeWord_of_row rfl, decodeWord_of_row rfl, decodeWord_of_row rfl, decodeWord_of_row rfl,
      decodeWord_of_row rfl, decodeWord_of_row rfl, decodeWord_of_row rfl, decodeWord_of_row rfl⟩,
    stores_of_storeAt hm rfl, stores_of_storeAt hm rfl, stores_of_storeAt hm rfl, stores_of_storeAt hm rfl,
    stores_of_storeAt hm rfl, stores_of_storeAt hm rfl, pushes_of_pushAt hm rfl, pushes_of_pushAt hm rfl, stores_of_storeAt hm rfl⟩

/-- Settles O45. -/
theorem otherStores : Obligations.OtherStores := by
  rintro s m n d4 d8 q hm rfl
  rw [← State.offset_one s d4, ← State.offset_one s d8]
  exact ⟨stores_of_storeAt hm rfl, stores_of_storeAt hm rfl, pushes_of_pushAt hm rfl, stores_of_storeAt hm rfl,
    stores_of_storeAt hm rfl, stores_of_storeAt hm rfl, stores_of_storeAt hm rfl, stores_of_storeAt hm rfl⟩

/-! One byte. -/

/-- What can be written can be read. -/
theorem State.Writes.reads {s : State} {e : BitVec 64} {count align : Nat} (h : s.Writes e count align) : s.Reads e count align :=
  ⟨h.aligned, h.canonical, fun k hk => .inl (h.present k hk)⟩

/-- The value of one byte is that byte. -/
theorem State.valueAt_one (s : State) (o : ByteOrder) (a : BitVec 64) : s.valueAt o a 1 = Memory.read s.mem a.toNat := by
  cases o <;> simp [State.valueAt, ByteOrder.value, Memory.readBytes, littleValue]

/-- A byte after it is stored. -/
theorem State.read_putBytes_one {s : State} (hm : Memory.wf s.mem) (o : ByteOrder) (a : BitVec 64) (v : Byte) :
    Memory.read (s.putBytes o a 1 v.toNat).mem a.toNat = v := by
  have hvalue := s.valueAt_putBytes hm o a 1 v.toNat
  rw [State.valueAt_one] at hvalue
  exact BitVec.eq_of_toNat_eq (hvalue.trans (Nat.mod_eq_of_lt v.isLt))

/-- The frame of a store whose outcome also goes to `T`. -/
theorem frame_putBytes_putT {s : State} (hm : Memory.wf s.mem) (o : ByteOrder) (a : BitVec 64) (count v : Nat) (b : Bool) :
    Frame { srBits := [0], stored := [(a, count)] } s ((s.putBytes o a count v).putT b) :=
  (frame_putBytes s hm o a count v).andThen (frame_putT _ b) rfl rfl

theorem completes_tasB {s : State} {m : Reg} (hm : Memory.wf s.mem) (h : s.Writes (s.ea ((s.x m).setWidth 64)) 1 1) :
    Completes (.tasB m) s { srBits := [0], stored := [(s.ea ((s.x m).setWidth 64), 1)] } fun t =>
      (t.t = true ↔ Memory.read s.mem (s.ea ((s.x m).setWidth 64)).toNat = 0) ∧
      Memory.read t.mem (s.ea ((s.x m).setWidth 64)).toNat = Memory.read s.mem (s.ea ((s.x m).setWidth 64)).toNat ||| 0x80 := by
  have hread : exec (.tasB m) s = _ := finish_of_ok (State.readMem_of_reads (o := s.localOrder) h.reads)
  refine completes_of_next (hread.trans (finish_of_ok (State.store_of_writes h))) (frame_putBytes_putT hm ..) rfl rfl (State.putT_aq _ _) ⟨?_, ?_⟩
  · rw [State.advance_t, State.putT_t, State.valueAt_one, beq_iff_eq]
  · rw [State.valueAt_one]
    exact State.read_putBytes_one hm ..

theorem setsT_tstB {s : State} {imm : BitVec 8} (h : s.Reads (s.ea ((s.readSpecial .gbr + s.x 0).setWidth 64)) 1 1) :
    SetsT (.tstB imm) s
      (Memory.read s.mem (s.ea ((s.readSpecial .gbr + s.x 0).setWidth 64)).toNat &&& imm = 0) := by
  refine setsT_of_putT (i := .tstB imm) (finish_of_ok (State.readMem_of_reads (o := s.localOrder) h)) ?_
  rw [beq_iff_eq, State.valueAt_one]
  exact Iff.rfl

/-- A byte instruction at `GBR + R0` that replaces the byte. -/
theorem completes_of_modifyByte {i : Instr} {s : State} {f : Byte → Byte} (hexec : exec i s = modifyByte f s)
    (hm : Memory.wf s.mem) (h : s.Writes (s.ea ((s.readSpecial .gbr + s.x 0).setWidth 64)) 1 1) :
    Completes i s { stored := [(s.ea ((s.readSpecial .gbr + s.x 0).setWidth 64), 1)] } fun t =>
      Memory.read t.mem (s.ea ((s.readSpecial .gbr + s.x 0).setWidth 64)).toNat =
        f (Memory.read s.mem (s.ea ((s.readSpecial .gbr + s.x 0).setWidth 64)).toNat) := by
  have hnext := hexec.trans ((finish_of_ok (State.readMem_of_reads (o := s.localOrder) h.reads)).trans
    (congrArg finish (State.store_of_writes (v := f (s.valueAt s.localOrder (s.ea ((s.readSpecial .gbr + s.x 0).setWidth 64)) 1)) h)))
  refine completes_of_next hnext (frame_putBytes s hm ..) rfl rfl rfl ?_
  rw [← State.valueAt_one s s.localOrder]
  exact State.read_putBytes_one hm ..

/-- Settles O46. -/
theorem byteInstructions : Obligations.ByteInstructions := by
  rintro s m imm e g hm rfl rfl
  refine ⟨completes_tasB hm, setsT_tstB, fun h => ⟨completes_of_modifyByte (f := (· &&& imm)) rfl hm h,
    completes_of_modifyByte (f := (· ^^^ imm)) rfl hm h, completes_of_modifyByte (f := (· ||| imm)) rfl hm h⟩, fun h => finish_of_raise (State.readMem_of_misses (o := s.localOrder) h),
    fun h i hi => ?_⟩
  have hread := State.readMem_of_misses (o := s.localOrder) h
  simp only [List.mem_cons, List.not_mem_nil, or_false] at hi
  rcases hi with rfl | rfl | rfl | rfl
  · exact finish_of_raise hread
  · exact finish_of_raise hread
  · exact finish_of_raise hread
  · exact finish_of_raise hread

/-! Compare and swap. -/

/-- Whether a register's low 32 bits match a DWord. -/
theorem State.low32_beq {s : State} (c : Reg) (v : BitVec (8 * 4)) :
    ((s.x c).setWidth 32 == v.setWidth 32) = decide (s.xNat c % 2 ^ 32 = v.toNat) := by
  have hv : (v.setWidth 32).toNat = v.toNat := BitVec.toNat_setWidth_of_le (by norm_num)
  rw [Bool.eq_iff_iff, beq_iff_eq, decide_eq_true_iff, ← BitVec.toNat_inj, hv, BitVec.toNat_setWidth]
  exact Iff.rfl

/-- `CAS.L` after a read that matches: the store, the old value and `T`. -/
theorem exec_casL_of_match {s : State} {m n c v : Reg} (hregs : casRegisters s.params.casRoles m n = (c, v))
    (h : s.Reads (s.ea ((s.x 0).setWidth 64)) 4 4)
    (heq : s.xNat c % 2 ^ 32 = (s.valueAt s.localOrder (s.ea ((s.x 0).setWidth 64)) 4).toNat) :
    exec (.casL m n) s = finish (do
      let s1 ← s.store (s.x 0) 4 (s.x v)
      pure ((s1.setX n ((s.valueAt s.localOrder (s.ea ((s.x 0).setWidth 64)) 4).signExtend s.W)).putT true)) := by
  have hread : exec (.casL m n) s = _ := finish_of_ok (State.readMem_of_reads (o := s.localOrder) h)
  rw [hread, hregs]
  simp only [State.low32_beq, decide_eq_true heq, if_true]

/-- `CAS.L` after a read that does not match: the old value and `T`. -/
theorem exec_casL_of_mismatch {s : State} {m n c v : Reg} (hregs : casRegisters s.params.casRoles m n = (c, v))
    (h : s.Reads (s.ea ((s.x 0).setWidth 64)) 4 4)
    (hne : s.xNat c % 2 ^ 32 ≠ (s.valueAt s.localOrder (s.ea ((s.x 0).setWidth 64)) 4).toNat) :
    exec (.casL m n) s =
      .next (((s.setX n ((s.valueAt s.localOrder (s.ea ((s.x 0).setWidth 64)) 4).signExtend s.W)).putT false).advance 2) := by
  have hread : exec (.casL m n) s = _ := finish_of_ok (State.readMem_of_reads (o := s.localOrder) h)
  rw [hread, hregs]
  simp only [State.low32_beq, decide_eq_false hne, Bool.false_eq_true, if_false]
  rfl

/-- The registers that a role compares and stores. -/
theorem casRegisters_eq {s : State} {m n c v : Reg}
    (h : (s.params.casRoles = .compareRm ∧ c = m ∧ v = n) ∨ (s.params.casRoles = .compareRn ∧ c = n ∧ v = m)) :
    casRegisters s.params.casRoles m n = (c, v) := by
  rcases h with ⟨hr, rfl, rfl⟩ | ⟨hr, rfl, rfl⟩ <;> rw [hr] <;> rfl

/-- Settles O47. -/
theorem compareAndSwap : Obligations.CompareAndSwap := by
  rintro s m n c v e hm rfl hroles
  have hregs := casRegisters_eq hroles
  have hwidth : 8 * 4 ≤ s.W := s.W_le_of_le (by norm_num)
  refine ⟨fun h heq => ?swap, fun h hne => ?keep, fun h => finish_of_raise (State.readMem_of_misses (o := s.localOrder) h)⟩
  case swap =>
    refine completes_of_next ((exec_casL_of_match hregs h.reads heq).trans (finish_of_ok (State.store_of_writes h)))
      (((frame_putBytes s hm ..).trans (frame_setX _ n _) (.inl rfl) (h := { regs := [n], stored := [(_, 4)] }) (by simp) (by simp)
        (by simp) (by simp) (by simp) rfl).andThen (frame_putT _ _) rfl rfl) rfl rfl (State.putT_aq _ _) ⟨?_, ?_, ?_⟩
    · rw [State.advance_t, State.putT_t]
    · exact s.valueAt_putBytes hm ..
    · rw [State.xIntIn_advance]
      refine (State.xIntIn_setX (s.putBytes s.localOrder _ 4 _) n _).trans ?_
      exact BitVec.toInt_signExtend_of_le hwidth
  case keep =>
    refine completes_of_next (exec_casL_of_mismatch hregs h hne) (frame_setX_putT s n _ false) rfl rfl (State.putT_aq _ _) ⟨?_, ?_⟩
    · rw [State.advance_t, State.putT_t]
    · rw [State.xIntIn_advance]
      exact (State.xIntIn_setX s n _).trans (BitVec.toInt_signExtend_of_le hwidth)

end Sys2Proof.Machine
end

section
/-!
PROOFS. The PC-relative operations, and the moves of system and control registers.
-/

namespace Sys2Proof.Machine

/-! PC-relative operations. -/

/-- Rounding an address down to a multiple of 4. -/
theorem and_not_three (a : BitVec 64) : a &&& ~~~3#64 = BitVec.ofNat 64 (a.toNat / 4 * 4) := by
  have hshift : a &&& ~~~3#64 = (a >>> 2) <<< 2 := by
    refine BitVec.eq_of_getLsbD_eq fun j hj => ?_
    rw [BitVec.getLsbD_and, BitVec.getLsbD_not, BitVec.getLsbD_shiftLeft, BitVec.getLsbD_ushiftRight]
    by_cases h2 : j < 2
    · interval_cases j <;> simp
    · have hthree : (3#64).getLsbD j = false :=
        Nat.testBit_lt_two_pow ((by norm_num : 3 < 2 ^ 2).trans_le (Nat.pow_le_pow_right (by norm_num) (by omega)))
      rw [hthree, show 2 + (j - 2) = j by omega]
      simp [hj, h2]
  refine hshift.trans (BitVec.eq_of_toNat_eq ?_)
  rw [BitVec.toNat_shiftLeft, BitVec.toNat_ushiftRight, Nat.shiftLeft_eq, Nat.shiftRight_eq_div_pow, BitVec.toNat_ofNat]

/-- The model's address of a PC-relative operand is the literal's. -/
theorem State.pcOperand_eq_literal (s : State) (d : BitVec 8) : s.pcOperand d = s.literal d := by
  have hdisp : (4 : BitVec 64) * d.setWidth 64 = BitVec.ofNat 64 (4 * d.toNat) :=
    BitVec.eq_of_toNat_eq (by simp)
  rw [State.pcOperand, State.pcBase, and_not_three, hdisp, ← BitVec.ofNat_add]
  rfl

theorem State.ea_literal (s : State) (d : BitVec 8) : s.ea (s.literal d) = s.literal d := s.ea_ea _

/-- A PC-relative load of 4 bytes. -/
theorem State.loadPc_of_narrow {s : State} (hw : s.wide = false) {a : BitVec 64} (h : s.Reads (s.ea a) 4 4) :
    s.loadPc a = .ok ((s.valueAt s.machineOrder (s.ea a) 4).signExtend s.W) := by
  simp only [State.loadPc, hw, State.readMem_of_reads h]
  rfl

/-- The two DWords of a PC-relative load of 8 bytes, the one at the lower address first. -/
def State.dwords (s : State) (e f : BitVec 64) : BitVec 64 :=
  match s.machineOrder with
  | .big => (s.valueAt s.machineOrder e 4).setWidth 32 ++ (s.valueAt s.machineOrder f 4).setWidth 32
  | .little => (s.valueAt s.machineOrder f 4).setWidth 32 ++ (s.valueAt s.machineOrder e 4).setWidth 32

/-- A PC-relative load of 8 bytes after its first DWord. -/
theorem State.loadPc_of_wide {s : State} (hw : s.wide = true) {a : BitVec 64} (h : s.Reads (s.ea a) 4 4) :
    s.loadPc a = (do
      let second ← s.readMem s.machineOrder (a + 4) 4
      let v : BitVec 64 := match s.machineOrder with
        | .big => (s.valueAt s.machineOrder (s.ea a) 4).setWidth 32 ++ second.setWidth 32
        | .little => second.setWidth 32 ++ (s.valueAt s.machineOrder (s.ea a) 4).setWidth 32
      pure (v.setWidth s.W)) := by
  simp only [State.loadPc, hw, if_true, State.readMem_of_reads h]
  rfl

/-- A PC-relative load whose first read does not answer. -/
theorem State.loadPc_of_error {s : State} {a : BitVec 64} {e : Abort} (h : s.readMem s.machineOrder a 4 = .error e) :
    s.loadPc a = .error e := by
  by_cases hw : s.wide = true
  · simp only [State.loadPc, hw, if_true, h]; rfl
  · simp only [State.loadPc, hw, h]; rfl

/-- Two DWords joined, as a number. -/
theorem toNat_dwords (s : State) (e f : BitVec 64) : (s.dwords e f).toNat =
    if s.me then (s.valueAt s.machineOrder f 4).toNat * 2 ^ 32 + (s.valueAt s.machineOrder e 4).toNat
    else (s.valueAt s.machineOrder e 4).toNat * 2 ^ 32 + (s.valueAt s.machineOrder f 4).toNat := by
  have hjoin : ∀ a b : BitVec (8 * 4), (a.setWidth 32 ++ b.setWidth 32 : BitVec 64).toNat = a.toNat * 2 ^ 32 + b.toNat :=
    fun a b => by
      rw [BitVec.toNat_append, ← Nat.shiftLeft_add_eq_or_of_lt (BitVec.isLt _), Nat.shiftLeft_eq,
        BitVec.toNat_setWidth_of_le (by norm_num), BitVec.toNat_setWidth_of_le (by norm_num)]
  cases hme : s.me
  · simp only [State.dwords, State.machineOrder, hme]
    exact hjoin _ _
  · simp only [State.dwords, State.machineOrder, hme]
    exact hjoin _ _

/-- Settles O48. -/
theorem pcRelative : Obligations.PcRelative := by
  rintro s n d e f hslot rfl rfl
  have hno := State.requireNoSlot_of_none hslot
  have hexec : exec (.movLqLoadPc d n) s = finish (do
      let v ← s.loadPc (s.pcOperand d)
      pure (s.setX n v)) := finish_of_ok hno
  rw [State.pcOperand_eq_literal] at hexec
  have hea := s.ea_literal d
  refine ⟨?mova, fun hw h => ?narrow, fun hw h1 h2 => ?wide, fun h => ?miss, fun hw h1 h2 => ?miss2⟩
  case mova =>
    rw [← State.pcOperand_eq_literal]
    exact yields_of_setX (finish_of_ok hno) (BitVec.toNat_setWidth _ _)
  case narrow =>
    rw [← hea] at h
    refine yieldsInt_of_setX (hexec.trans (finish_of_ok (State.loadPc_of_narrow hw h))) ?_
    rw [BitVec.toInt_signExtend_of_le (s.W_le_of_le (by norm_num)), hea]
  case wide =>
    rw [← hea] at h1
    have hload : s.loadPc (s.literal d) = .ok ((s.dwords (s.literal d) (s.ea (s.literal d + 4))).setWidth s.W) := by
      rw [State.loadPc_of_wide hw h1, State.readMem_of_reads h2, hea]; rfl
    refine yields_of_setX (hexec.trans (finish_of_ok hload)) ?_
    rw [BitVec.toNat_setWidth_of_le (by rw [State.W_of_wide hw]), toNat_dwords]
  case miss =>
    rw [← hea] at h
    have hmiss := State.loadPc_of_error (State.readMem_of_misses (o := s.machineOrder) h)
    rw [hea] at hmiss
    exact hexec.trans (finish_of_raise hmiss)
  case miss2 =>
    rw [← hea] at h1
    have hload : s.loadPc (s.literal d) = .error (.raise (.addressError (s.ea (s.literal d + 4)) .read) s) := by
      rw [State.loadPc_of_wide hw h1, State.readMem_of_misses h2]; rfl
    exact hexec.trans (finish_of_raise hload)

/-! Copies between general and special registers. -/

/-- A copy of a special register, past its check. -/
theorem yields_of_copyFrom {i : Instr} {s : State} {check : Except Abort Unit} {r : Special} {n : Reg}
    (h : exec i s = copyFrom check r n s) (hcheck : check = .ok ()) : Yields i s n ((s.special r).toNat % 2 ^ s.W) :=
  yields_of_setX (h.trans (finish_of_ok hcheck)) (BitVec.toNat_setWidth _ _)

/-- A copy to a special register, past its check. -/
theorem puts_of_copyTo {i : Instr} {s : State} {check : Except Abort Unit} {r : Special} {m : Reg}
    (h : exec i s = copyTo check r m s) (hcheck : check = .ok ()) (hr : r ≠ .sr) : Puts i s r (s.xNat m) :=
  puts_of_writeSpecial hr (h.trans (finish_of_ok hcheck)) rfl

/-- A privileged copy of a special register, in both modes. -/
theorem copyFrom_privileged {i : Instr} {s : State} {r : Special} {n : Reg}
    (h : exec i s = copyFrom (s.requirePrivilege i) r n s) :
    (s.mayRun i = true → Yields i s n ((s.special r).toNat % 2 ^ s.W)) ∧ (s.mayRun i = false → Traps i s .illegalInstruction) :=
  ⟨fun hrun => yields_of_copyFrom h (State.requirePrivilege_of_mayRun hrun),
    fun hrun => h.trans (finish_of_raise (State.requirePrivilege_of_not hrun))⟩

/-- Settles O49. -/
theorem copiesToGeneral : Obligations.CopiesToGeneral := by
  intro s n
  refine ⟨⟨decodeWord_of_row rfl, decodeWord_of_row rfl, decodeWord_of_row rfl, decodeWord_of_row rfl, decodeWord_of_row rfl,
      decodeWord_of_row rfl, decodeWord_of_row rfl, decodeWord_of_row rfl, decodeWord_of_row rfl⟩, fun p hp => ?_,
    yields_of_copyFrom (r := .gbr) rfl rfl, yields_of_copyFrom (r := .mach) rfl rfl, yields_of_copyFrom (r := .macl) rfl rfl,
    yields_of_copyFrom (r := .pr) rfl rfl⟩
  simp only [List.mem_cons, List.not_mem_nil, or_false] at hp
  rcases hp with rfl | rfl | rfl | rfl | rfl
  · exact copyFrom_privileged (r := .sr) rfl
  · exact copyFrom_privileged (r := .vbr) rfl
  · exact copyFrom_privileged (r := .ssr) rfl
  · exact copyFrom_privileged (r := .spc) rfl
  · exact copyFrom_privileged (r := .dbr) rfl

theorem completes_ldcBank {s : State} {m : Reg} {b : BankReg} (hrun : s.mayRun (.ldcBank m b) = true) :
    Completes (.ldcBank m b) s { others := [b] } fun t => t.otherNat b = s.xNat m := by
  refine completes_of_next (finish_of_ok (State.requirePrivilege_of_mayRun hrun)) (frame_setXOther s b (s.x m)) rfl rfl rfl ?_
  exact (s.otherNat_setXOther b (s.x m)).trans (Nat.mod_eq_of_lt (s.xNat_lt m))

/-- Settles O50. -/
theorem copiesFromGeneral : Obligations.CopiesFromGeneral := by
  refine fun s m n b => ⟨puts_of_copyTo rfl rfl (by decide), puts_of_copyTo rfl rfl (by decide), puts_of_copyTo rfl rfl (by decide),
    puts_of_copyTo rfl rfl (by decide), fun hfd => ?fpu, fun p hp hrun => ?privileged,
    fun hrun => yields_of_setX (finish_of_ok (State.requirePrivilege_of_mayRun hrun)) rfl, completes_ldcBank⟩
  case fpu =>
    have hfpu := State.requireFpu_of_enabled hfd
    exact ⟨puts_of_copyTo rfl hfpu (by decide), puts_of_copyTo rfl hfpu (by decide),
      yields_of_setX (finish_of_ok hfpu) rfl, yields_of_setX (finish_of_ok hfpu) rfl⟩
  case privileged =>
    have hcheck := State.requirePrivilege_of_mayRun hrun
    simp only [List.mem_cons, List.not_mem_nil, or_false] at hp
    rcases hp with rfl | rfl | rfl | rfl
    · exact puts_of_copyTo (r := .vbr) rfl hcheck (by decide)
    · exact puts_of_copyTo (r := .ssr) rfl hcheck (by decide)
    · exact puts_of_copyTo (r := .spc) rfl hcheck (by decide)
    · exact puts_of_copyTo (r := .dbr) rfl hcheck (by decide)

/-! Loads of the status register. -/

/-- A write of `SR` leaves everything else, but halves of the FPU registers where `SR.AQ` changed. -/
theorem statusFrame_putSR (s : State) (v : BitVec 64) : StatusFrame s (s.putSR v) where
  bankA := rfl
  bankB := rfl
  rh := rfl
  specials r hr := State.special_putSpecial_of_ne s (r := .sr) v hr
  base := rfl
  fpu h := if_pos h
  fpuLow h i := by
    simp only [State.freg, State.putSR]
    split
    · rfl
    · next hv =>
      rw [h, Bool.not_eq_false] at hv
      rw [hv]
      simp [State.redrawFpu]
  fpuHigh h i := by
    simp only [State.freg, State.putSR]
    split
    · rfl
    · next hv =>
      rw [h, Bool.not_eq_true] at hv
      rw [hv]
      simp [State.redrawFpu]
  mem := rfl
  tags := rfl
  asleep := rfl
  irqInput := rfl
  params := rfl

theorem StatusFrame.advance {s t : State} (h : StatusFrame s t) (len : BitVec 64) : StatusFrame s (t.advance len) :=
  { h with specials := fun r hr => (State.advance_special t len r).trans (h.specials r hr) }

/-- Where execution goes on after an advance, in the state that the instruction leaves. -/
theorem State.advance_next {s t : State} (hpc : t.pc = s.pc) (hslot : t.slot = s.slot) :
    (t.advance 2).slot = none ∧ (s.slot = none → (t.advance 2).pc = (t.advance 2).ea (s.pc + 2)) ∧
      ∀ sl, s.slot = some sl → (t.advance 2).pc = (t.advance 2).ea sl.target := by
  refine ⟨rfl, fun h => ?_, fun sl h => ?_⟩
  · simp only [State.advance, hslot, h, State.pcPlus, hpc]; rfl
  · simp only [State.advance, hslot, h]; rfl

/-- Settles O51. -/
theorem statusLoads : Obligations.StatusLoads := by
  rintro s m e rfl
  refine ⟨fun hrun => ?ldc, fun hrun h => ?pop, fun hrun h => ?miss⟩
  case ldc =>
    obtain ⟨hslot, hnext, htarget⟩ := State.advance_next (s := s) (t := s.writeSpecial .sr (s.x m)) rfl rfl
    exact ⟨_, finish_of_ok (State.requirePrivilege_of_mayRun hrun), (statusFrame_putSR s _).advance 2,
      wrote_advance (s.wrote_writeSpecial .sr (s.x m)), hslot, hnext, htarget⟩
  case pop =>
    have hcheck : exec (.ldcSrPop m) s = _ := finish_of_ok (State.requirePrivilege_of_mayRun hrun)
    refine ⟨s.setX m (s.x m + BitVec.ofNat s.W s.szLQ), _, frame_setX s m _, ?_,
      hcheck.trans (finish_of_ok (State.popAt_of_reads h)), (statusFrame_putSR _ _).advance 2, wrote_advance ?_,
      State.advance_next (s := s) rfl rfl⟩
    · rw [State.xNat_setX, BitVec.toNat_add, BitVec.toNat_ofNat, Nat.add_mod_mod]; rfl
    · rw [← s.toNat_signExtend_szLQ]
      exact s.wrote_setX_writeSpecial m _ .sr _
  case miss =>
    have hcheck : exec (.ldcSrPop m) s = _ := finish_of_ok (State.requirePrivilege_of_mayRun hrun)
    exact hcheck.trans (finish_of_raise (State.popAt_of_misses h))

/-! Pushes and pops of special registers. -/

/-- Settles O52. -/
theorem specialPushes : Obligations.SpecialPushes := by
  refine fun s n b hm => ⟨pushes_of_pushAt hm rfl, pushes_of_pushAt hm rfl, pushes_of_pushAt hm rfl, pushes_of_pushAt hm rfl,
    fun hfd => ?fpu, fun p hp hrun => ?privileged⟩
  case fpu =>
    have hfpu := State.requireFpu_of_enabled hfd
    exact ⟨pushes_of_pushAt hm (finish_of_ok hfpu), pushes_of_pushAt hm (finish_of_ok hfpu)⟩
  case privileged =>
    have hcheck := State.requirePrivilege_of_mayRun hrun
    simp only [List.mem_cons, List.not_mem_nil, or_false] at hp
    rcases hp with rfl | rfl | rfl | rfl | rfl | rfl
    · exact pushes_of_pushAt hm (finish_of_ok hcheck)
    · exact pushes_of_pushAt hm (finish_of_ok hcheck)
    · exact pushes_of_pushAt hm (finish_of_ok hcheck)
    · exact pushes_of_pushAt hm (finish_of_ok hcheck)
    · exact pushes_of_pushAt hm (finish_of_ok hcheck)
    · exact pushes_of_pushAt hm (finish_of_ok hcheck)

theorem completes_ldcBankPop {s : State} {m : Reg} {b : BankReg} (hrun : s.mayRun (.ldcBankPop m b) = true)
    (h : s.Reads (s.ea ((s.x m).setWidth 64)) s.szLQ s.szLQ) :
    Completes (.ldcBankPop m b) s { regs := [m], others := [b] } fun t =>
      t.otherNat b = (s.valueAt s.localOrder (s.ea ((s.x m).setWidth 64)) s.szLQ).toNat ∧
      t.xNat m = (s.xNat m + s.szLQ) % 2 ^ s.W := by
  have hcheck : exec (.ldcBankPop m b) s = _ := finish_of_ok (State.requirePrivilege_of_mayRun hrun)
  refine completes_of_next (hcheck.trans (finish_of_ok (State.popAt_of_reads h)))
    ((frame_setX s m _).trans (frame_setXOther _ b _) (.inl rfl) (by simp) (by simp) (by simp) (by simp) (by simp) rfl)
    rfl rfl rfl ⟨?_, ?_⟩
  · refine (State.otherNat_setXOther (s.setX m _) b _).trans ?_
    rw [State.toNat_signExtend_szLQ, State.setX_W, Nat.mod_eq_of_lt]
    exact (BitVec.isLt _).trans_eq (by rw [s.szLQ_eq])
  · refine (State.xNat_congr (s := s.setX m _) (State.reg_putOtherReg _ b _ m) rfl).trans ?_
    rw [State.xNat_setX, BitVec.toNat_add, BitVec.toNat_ofNat, Nat.add_mod_mod]; rfl

/-- Settles O53. -/
theorem specialPops : Obligations.SpecialPops := by
  rintro s m b e rfl
  refine ⟨popsTo_of_popAt (by decide) rfl, popsTo_of_popAt (by decide) rfl, popsTo_of_popAt (by decide) rfl,
    popsTo_of_popAt (by decide) rfl, fun hfd => ?fpu, fun p hp hrun => ?privileged,
    fun hrun => ⟨completes_ldcBankPop hrun, fun h => ?miss⟩⟩
  case fpu =>
    have hfpu := State.requireFpu_of_enabled hfd
    exact ⟨popsTo_of_popAt (by decide) (finish_of_ok hfpu), popsTo_of_popAt (by decide) (finish_of_ok hfpu)⟩
  case privileged =>
    have hcheck := State.requirePrivilege_of_mayRun hrun
    simp only [List.mem_cons, List.not_mem_nil, or_false] at hp
    rcases hp with rfl | rfl | rfl | rfl
    · exact popsTo_of_popAt (r := .vbr) (by decide) (finish_of_ok hcheck)
    · exact popsTo_of_popAt (r := .ssr) (by decide) (finish_of_ok hcheck)
    · exact popsTo_of_popAt (r := .spc) (by decide) (finish_of_ok hcheck)
    · exact popsTo_of_popAt (r := .dbr) (by decide) (finish_of_ok hcheck)
  case miss =>
    have hcheck : exec (.ldcBankPop m b) s = _ := finish_of_ok (State.requirePrivilege_of_mayRun hrun)
    exact hcheck.trans (finish_of_raise (State.popAt_of_misses h))

end Sys2Proof.Machine
end

section
/-!
PROOFS. Branches, and the fat loads.
-/

namespace Sys2Proof.Machine

/-! The ends of an instruction that says itself where the program counter goes. -/

/-- Such an instruction goes on where a part of its body answers. -/
theorem settle_of_ok {α : Type} {m : Except Abort α} {k : α → Except Abort State} {a : α} (h : m = .ok a) :
    settle (m >>= k) = settle (k a) := by rw [h]; rfl

/-- Such an instruction ends in a trap where a part of its body raises. -/
theorem settle_of_raise {α : Type} {m : Except Abort α} {k : α → Except Abort State} {c : Cause} {s : State}
    (h : m = .error (.raise c s)) : settle (m >>= k) = trapEntry c s := by rw [h]; rfl

/-- Such an instruction is refused where a part of its body is. -/
theorem settle_of_refuse {α : Type} {m : Except Abort α} {k : α → Except Abort State} {r : Refusal}
    (h : m = .error (.refuse r)) : settle (m >>= k) = .refused r := by rw [h]; rfl

/-! Targets. -/

/-- The target of a branch with a displacement is its label. -/
theorem State.branchTarget_eq_label (s : State) {w : Nat} (d : BitVec w) (h : w ≤ 64) : s.branchTarget d = s.label d := by
  refine congrArg s.ea (BitVec.eq_of_toInt_eq ?_)
  have hd : (d.signExtend 64).toInt = d.toInt := BitVec.toInt_signExtend_of_le h
  simp [BitVec.toInt_add, BitVec.toInt_mul, hd, add_assoc]

/-- A branch relative to the program counter by a register. -/
theorem State.pcPlus_register (s : State) (m : Reg) :
    s.pcPlus (4 + (s.x m).setWidth 64) = s.ea (BitVec.ofNat 64 (s.pc.toNat + 4 + s.xNat m)) := by
  refine congrArg s.ea (BitVec.eq_of_toNat_eq ?_)
  simp [State.xNat, Nat.add_assoc]

/-- A branch to a value. -/
theorem State.jumpTarget_eq (s : State) {w : Nat} (v : BitVec w) : s.jumpTarget v = s.ea (BitVec.ofNat 64 v.toNat) := by
  rw [State.jumpTarget, BitVec.ofNat_toNat]

/-! Delayed branches. -/

theorem State.delayTo_special (s : State) (target len : BitVec 64) (r : Special) :
    (s.delayTo target len).special r = s.special r := by cases r <;> rfl

theorem wrote_delayTo {s t : State} {r : Special} {v : Nat} (h : Wrote s r v t) (target len : BitVec 64) :
    Wrote s r v (t.delayTo target len) := by
  unfold Wrote at *
  rwa [State.delayTo_special]

/-- An instruction that ends in a delayed branch. -/
theorem branches_of_delayTo {i : Instr} {s t : State} {f : Footprint} {target len : BitVec 64} {Q : State → Prop}
    (h : exec i s = .next (t.delayTo target len)) (hf : Frame f s t) (hpc : t.pc = s.pc) (haq : t.aq = s.aq)
    (hq : Q (t.delayTo target len)) : Branches i s f target len Q :=
  ⟨_, h, hf.delayTo target len, by simp only [State.delayTo, State.pcPlus, State.ea, hpc, haq],
    by simp only [State.delayTo, hpc], hq⟩

/-- A delayed branch that saves no address. -/
theorem branches_of_jump {i : Instr} {s : State} {target target' len : BitVec 64} {Q : State → Prop}
    (h : exec i s = .next (s.delayTo target' len)) (ht : target' = target) (hq : Q (s.delayTo target len)) :
    Branches i s {} target len Q := by
  subst ht
  exact branches_of_delayTo h (Frame.refl _ rfl s) rfl rfl hq

/-- A delayed branch that saves an address in `PR`. -/
theorem branches_of_call {i : Instr} {s : State} {target target' len a : BitVec 64}
    (h : exec i s = .next ((s.writeSpecial .pr a).delayTo target' len)) (ht : target' = target) :
    Branches i s { specials := [.pr] } target len (Wrote s .pr a.toNat) := by
  subst ht
  exact branches_of_delayTo h (frame_writeSpecial s (by decide) a) rfl rfl (wrote_delayTo (s.wrote_writeSpecial .pr a) _ _)

/-- The program counter is in no footprint. -/
theorem frame_pc (s : State) (a : BitVec 64) : Frame {} s { s with pc := a } :=
  { Frame.refl {} rfl s with specials := fun r _ _ => by cases r <;> rfl }

/-- A conditional branch without a slot. -/
theorem exec_branchIf {s : State} (hslot : s.slot = none) (taken : Bool) (d : BitVec 8) :
    ∃ t, branchIf taken d s = .next t ∧ Frame {} s t ∧ t.slot = none ∧
      t.pc = if taken then s.label d else s.ea (s.pc + 2) := by
  have hexec : branchIf taken d s = .next (if taken then { s with pc := s.branchTarget d } else s.advance) :=
    settle_of_ok (State.requireNoSlot_of_none hslot)
  cases taken
  · refine ⟨_, hexec, (Frame.refl _ rfl s).advance 2, rfl, ?_⟩
    simp only [Bool.false_eq_true, if_false, State.advance, hslot, State.pcPlus]
  · refine ⟨_, hexec, ?_, hslot, s.branchTarget_eq_label d (by norm_num)⟩
    exact frame_pc s _

/-- A conditional branch with a slot. -/
theorem exec_branchIfDelayed {s : State} (hslot : s.slot = none) (taken : Bool) (d : BitVec 8) :
    branchIfDelayed taken d s = .next (s.delayTo (if taken then s.label d else s.ea (s.pc + 4))) := by
  rw [← s.branchTarget_eq_label d (by norm_num)]
  exact settle_of_ok (State.requireNoSlot_of_none hslot)

/-- Settles O54. -/
theorem branchInstructions : Obligations.BranchInstructions := by
  intro s m d8 d12 hslot
  have hno := State.requireNoSlot_of_none hslot
  have hlabel : s.branchTarget d12 = s.label d12 := s.branchTarget_eq_label d12 (by norm_num)
  have hnot : ∀ a b : BitVec 64, (if s.t then a else b) = if !s.t then b else a := fun a b => by cases s.t <;> rfl
  refine ⟨exec_branchIf hslot s.t d8, ?bf, branches_of_jump (exec_branchIfDelayed hslot s.t d8) rfl rfl, ?bfs,
    branches_of_jump (settle_of_ok hno) hlabel rfl, branches_of_call (settle_of_ok hno) hlabel,
    branches_of_jump (settle_of_ok hno) (s.pcPlus_register m) rfl, branches_of_call (settle_of_ok hno) (s.pcPlus_register m),
    branches_of_jump (settle_of_ok hno) (s.jumpTarget_eq _) rfl, branches_of_call (settle_of_ok hno) (s.jumpTarget_eq _),
    branches_of_jump (settle_of_ok hno) (s.jumpTarget_eq _) rfl⟩
  case bf =>
    rw [hnot]
    exact exec_branchIf hslot (!s.t) d8
  case bfs =>
    rw [hnot]
    exact branches_of_jump (exec_branchIfDelayed hslot (!s.t) d8) rfl rfl

/-! Fat loads. -/

/-- A fat load of an immediate. -/
theorem completesAfter_of_fatMove {i : Instr} {s : State} {n : Reg} {w : Nat} {imm : BitVec w} {len : BitVec 64}
    (hfat : s.requireFatLoad = .ok ()) (h : exec i s = finish (do
      s.requireFatLoad
      pure (s.setX n (imm.signExtend s.W))) len) :
    CompletesAfter len i s { regs := [n] } fun t => t.xInt n = Int.bmod imm.toInt (2 ^ s.W) := by
  refine ⟨_, h.trans (finish_of_ok hfat), (frame_setX s n _).advance len, advances_advance len rfl rfl rfl, ?_⟩
  exact (s.xInt_setX n _).trans (BitVec.toInt_ofInt _)

/-- Settles O55. -/
theorem fatLoads : Obligations.FatLoads := by
  intro s n i24 i40 i56 d hslot hhas
  have hfat := State.requireFatLoad_of_ready hslot hhas
  have hlabel : s.branchTarget d = s.label d := s.branchTarget_eq_label d (by norm_num)
  refine ⟨?imm24, completesAfter_of_fatMove hfat rfl, completesAfter_of_fatMove hfat rfl,
    branches_of_jump (settle_of_ok hfat) hlabel rfl, branches_of_call (settle_of_ok hfat) hlabel⟩
  have h24 : Int.bmod i24.toInt (2 ^ s.W) = i24.toInt := by
    have hle : 24 ≤ s.W := by have := s.le_W; omega
    exact (BitVec.toInt_ofInt _).symm.trans (BitVec.toInt_signExtend_of_le hle)
  rw [← h24]
  exact completesAfter_of_fatMove hfat rfl

end Sys2Proof.Machine
end

section
/-!
PROOFS. Trap entry and return, and the instructions that trap.
-/

namespace Sys2Proof.Machine

/-! Reads and writes of devices and read-only memory. -/

theorem State.readMem_of_onDevice {s : State} {o : ByteOrder} {a : BitVec 64} {count : Nat} (h : s.OnDevice (s.ea a) count count) :
    s.readMem o a count = .error (.refuse .deviceAccess) := by
  rw [State.readMem, State.checkAccess_of_onDevice h]; rfl

/-! Trap entry. -/

theorem State.saveContext_aq (s : State) (c : Cause) : (s.saveContext c).aq = s.aq := by
  rw [State.aq, State.getLsbD_sr_saveContext]; rfl

theorem State.saveContext_dq (s : State) (c : Cause) : (s.saveContext c).dq = s.dq := by
  rw [State.dq, State.getLsbD_sr_saveContext]; rfl

theorem State.saveContext_me (s : State) (c : Cause) : (s.saveContext c).me = s.me := by
  rw [State.me, State.getLsbD_sr_saveContext]; rfl

theorem State.saveContext_ea (s : State) (c : Cause) (a : BitVec 64) : (s.saveContext c).ea a = s.ea a := by
  rw [State.ea, State.saveContext_aq]; rfl

theorem State.saveContext_vecBytes (s : State) (c : Cause) : (s.saveContext c).vecBytes = s.vecBytes := by
  rw [State.vecBytes, State.saveContext_aq]; rfl

theorem State.saveContext_W (s : State) (c : Cause) : (s.saveContext c).W = s.W := by
  rw [State.W, State.wide, State.saveContext_aq, State.saveContext_dq]; rfl

theorem State.saveContext_machineOrder (s : State) (c : Cause) : (s.saveContext c).machineOrder = s.machineOrder := by
  rw [State.machineOrder, State.saveContext_me]; rfl

theorem State.saveContext_vectorAddress (s : State) (c : Cause) : (s.saveContext c).vectorAddress c = s.vectorAddress c := by
  have hbase : ((s.saveContext c).readSpecial .vbr).setWidth 64 = (s.readSpecial .vbr).setWidth 64 := by
    simp only [State.readSpecial, State.special, State.saveContext_vbr]
    rw [State.saveContext_W]
  rw [State.vectorAddress, hbase, State.vecOffset, State.saveContext_aq, State.saveContext_vecBytes]
  rfl

/-- The handler's address: the vector, sign-extended. -/
def State.handler (s : State) (c : Cause) : BitVec 64 :=
  s.ea ((s.valueAt s.machineOrder (s.ea (s.vectorAddress c)) s.vecBytes).signExtend 64)

/-- The read of a vector, in the state that trap entry has then. -/
theorem State.readVector_of_reads {s : State} {c : Cause} (h : s.Reads (s.ea (s.vectorAddress c)) s.vecBytes s.vecBytes) :
    (s.saveContext c).readMem (s.saveContext c).machineOrder ((s.saveContext c).vectorAddress c) (s.saveContext c).vecBytes =
      .ok ((s.saveContext c).valueAt (s.saveContext c).machineOrder ((s.saveContext c).ea ((s.saveContext c).vectorAddress c))
        (s.saveContext c).vecBytes) := by
  refine State.readMem_of_reads ?_
  rw [State.saveContext_vectorAddress, State.saveContext_ea, State.saveContext_vecBytes]
  exact ⟨h.aligned, h.canonical, h.present⟩

theorem State.saveContext_handler (s : State) (c : Cause) :
    (s.saveContext c).ea (((s.saveContext c).valueAt (s.saveContext c).machineOrder
      ((s.saveContext c).ea ((s.saveContext c).vectorAddress c)) (s.saveContext c).vecBytes).signExtend 64) = s.handler c := by
  rw [State.saveContext_vectorAddress, State.saveContext_ea, State.saveContext_ea, State.saveContext_machineOrder,
    State.saveContext_vecBytes]
  rfl

theorem trapEntry_of_reads {s : State} {c : Cause} (hv : s.vbrWritten = true)
    (h : s.Reads (s.ea (s.vectorAddress c)) s.vecBytes s.vecBytes) :
    trapEntry c s = .next { s.saveContext c with pc := s.handler c } := by
  simp only [trapEntry, hv, if_true, State.readVector_of_reads h, State.saveContext_handler]

theorem trapEntry_of_misses {s : State} {c : Cause} (hv : s.vbrWritten = true)
    (h : s.Misses (s.ea (s.vectorAddress c)) s.vecBytes s.vecBytes) : trapEntry c s = .fault .vectorFetch := by
  have hread : (s.saveContext c).readMem (s.saveContext c).machineOrder ((s.saveContext c).vectorAddress c)
      (s.saveContext c).vecBytes = _ := State.readMem_of_misses (by
    rw [State.saveContext_vectorAddress, State.saveContext_ea, State.saveContext_vecBytes]; exact h)
  simp only [trapEntry, hv, if_true, hread]

theorem trapEntry_of_onDevice {s : State} {c : Cause} (hv : s.vbrWritten = true)
    (h : s.OnDevice (s.ea (s.vectorAddress c)) s.vecBytes s.vecBytes) : trapEntry c s = .refused .deviceAccess := by
  have hread : (s.saveContext c).readMem (s.saveContext c).machineOrder ((s.saveContext c).vectorAddress c)
      (s.saveContext c).vecBytes = _ := State.readMem_of_onDevice (by
    rw [State.saveContext_vectorAddress, State.saveContext_ea, State.saveContext_vecBytes]
    exact ⟨h.aligned, h.canonical, h.present, h.device⟩)
  simp only [trapEntry, hv, if_true, hread]

/-- What trap entry saves. -/
theorem wrote_saveContext (s : State) (c : Cause) (a : BitVec 64) :
    Wrote s .ssr s.sr.toNat { s.saveContext c with pc := a } ∧
    Wrote s .spc (s.returnAddress c).toNat { s.saveContext c with pc := a } :=
  ⟨s.wrote_writeSpecial .ssr s.sr, s.wrote_writeSpecial .spc (s.returnAddress c)⟩

/-- Settles O18. -/
theorem trapEntryAnswers : Obligations.TrapEntry := by
  intro c s
  refine ⟨fun hv h => ?_, fun hv => by simp [trapEntry, hv], trapEntry_of_misses, trapEntry_of_onDevice⟩
  obtain ⟨hssr, hspc⟩ := wrote_saveContext s c (s.handler c)
  have hbits := s.getLsbD_sr_saveContext c
  refine ⟨_, trapEntry_of_reads hv h, hssr, ?trap, ?interrupt, fun htrap hint => ⟨fun hslot => ?own, fun sl hslot => ?branch⟩,
    (hbits 30).trans (if_pos rfl), (hbits 28).trans rfl, fun k h28 h30 => (hbits k).trans ?_, rfl, rfl⟩
  case trap => rintro imm rfl; exact hspc
  case interrupt => rintro level rfl; exact hspc
  case own =>
    have hreturn : s.returnAddress c = s.pc := by
      cases c <;> first | exact absurd rfl (htrap _) | exact absurd rfl (hint _) | simp only [State.returnAddress, hslot]
    exact hreturn ▸ hspc
  case branch =>
    have hreturn : s.returnAddress c = sl.branch := by
      cases c <;> first | exact absurd rfl (htrap _) | exact absurd rfl (hint _) | simp only [State.returnAddress, hslot]
    exact hreturn ▸ hspc
  rw [if_neg h30, if_neg h28]

/-! Return from an exception. -/

theorem StatusFrame.delayTo {s t : State} (h : StatusFrame s t) (target len : BitVec 64) :
    StatusFrame s (t.delayTo target len) :=
  { h with specials := fun r hr => (State.delayTo_special t target len r).trans (h.specials r hr) }

/-- A write sees no more of its value than the width in force. -/
theorem wrote_mod_W {s t : State} {r : Special} {v : Nat} : Wrote s r (v % 2 ^ s.W) t ↔ Wrote s r v t := by
  unfold Wrote
  rcases s.W_cases with ⟨hw, hW⟩ | ⟨hw, hW⟩ <;> simp [hw, hW]

theorem exec_rte {s : State} (hrun : s.mayRun .rte = true) (hslot : s.slot = none) :
    exec .rte s = .next s.returnFromException :=
  (settle_of_ok (State.requirePrivilege_of_mayRun hrun)).trans (settle_of_ok (State.requireNoSlot_of_none hslot))

/-- Settles O19. -/
theorem returnFromException : Obligations.ReturnFromException := by
  intro s hrun hslot
  refine ⟨_, exec_rte hrun hslot, (statusFrame_putSR s _).delayTo _ _, ?_, rfl, ?_⟩
  · rw [← wrote_mod_W, ← BitVec.toNat_setWidth]
    exact wrote_delayTo (s.wrote_writeSpecial .sr _) _ _
  · rw [State.spNat, BitVec.ofNat_toNat]; rfl

/-- The low bits of a register that trap entry wrote, as an address. -/
theorem ea_merge (s : State) (old a : BitVec 64) : s.ea (((s.merge old a).setWidth s.W).setWidth 64) = s.ea a := by
  rcases s.W_cases with ⟨hw, hW⟩ | ⟨hw, hW⟩
  · rw [hW, State.merge, if_pos hw]; simp
  · have haq : s.aq = false := by simp only [State.wide, Bool.or_eq_false_iff] at hw; exact hw.2
    have hlow : (((s.merge old a).setWidth 32).setWidth 64).setWidth 32 = a.setWidth 32 := by
      rw [State.merge, hw]
      refine BitVec.eq_of_getLsbD_eq fun k hk => ?_
      rw [BitVec.getLsbD_setWidth, BitVec.getLsbD_setWidth, BitVec.getLsbD_setWidth]
      simp only [Bool.false_eq_true, if_false, BitVec.getLsbD_append, if_pos hk, BitVec.getLsbD_setWidth]
      simp [hk, show k < 64 by omega]
    simp only [State.ea, normalise, haq, Bool.false_eq_true, if_false]
    rw [hW, hlow]

/-- Trap entry leaves bits 63:32 of `SR`. -/
theorem saveContext_sr_high (s : State) (c : Cause) : (s.saveContext c).sr.extractLsb' 32 32 = s.sr.extractLsb' 32 32 := by
  refine BitVec.eq_of_getLsbD_eq fun k hk => ?_
  rw [BitVec.getLsbD_extractLsb', BitVec.getLsbD_extractLsb', State.getLsbD_sr_saveContext, if_neg (by omega), if_neg (by omega)]

/-- A saved value that is read and written back at the same width is the value, where the upper half was kept. -/
theorem merge_setWidth_merge {s u : State} (hwide : u.wide = s.wide) (old saved v : BitVec 64)
    (hhigh : old.extractLsb' 32 32 = v.extractLsb' 32 32) :
    u.merge old ((s.merge saved v).setWidth u.W) = v := by
  rcases u.W_cases with ⟨hw, hW⟩ | ⟨hw, hW⟩
  · rw [State.merge, if_pos hw, hW, State.merge, if_pos (hwide ▸ hw)]; simp
  · rw [State.merge, hw, State.merge, ← hwide, hw, hhigh]
    simp only [Bool.false_eq_true, if_false]
    rw [hW]
    refine BitVec.eq_of_getLsbD_eq fun k hk => ?_
    rw [BitVec.getLsbD_append]
    by_cases h : k < 32
    · simp only [h, if_true, BitVec.getLsbD_setWidth, BitVec.getLsbD_append, decide_true, Bool.true_and]
    · rw [if_neg h, BitVec.getLsbD_extractLsb', show 32 + (k - 32) = k by omega, decide_eq_true (by omega), Bool.true_and]

/-- Settles O11. -/
theorem trapThenReturn : Obligations.TrapThenReturn := by
  intro s t u c htrap hslot hpc hssr hspc hmd hwide huslot hhigh hparams
  obtain ⟨a, rfl⟩ := trapEntry_next htrap
  have hussr : u.ssr = s.merge s.ssr s.sr := hssr
  have huspc : u.spc = s.merge s.spc (s.returnAddress c) := hspc
  have hsr : u.returnFromException.sr = s.sr := by
    have hmerge := merge_setWidth_merge hwide u.sr s.ssr s.sr (hhigh.trans (saveContext_sr_high s c))
    rw [← hussr] at hmerge
    exact hmerge
  have haq : u.returnFromException.aq = s.aq := congrArg (·.getLsbD 21) hsr
  have hW : u.W = s.W := by rw [State.W, State.W, hwide]
  have htarget : u.returnFromException.slot = some ⟨s.ea (s.returnAddress c), u.pc⟩ := by
    have hea : u.returnFromException.ea ((u.readSpecial .spc).setWidth 64) = s.ea (s.returnAddress c) := by
      rw [← ea_merge s s.spc, ← huspc, State.ea, haq, ← State.ea, State.readSpecial, hW]; rfl
    rw [← hea]; rfl
  refine ⟨_, exec_rte (State.mayRun_of_supervisor hmd _) huslot, hsr, ?_, fun hne => ?_, ?_⟩
  · have hp : u.returnFromException.params = s.params := hparams
    simp only [State.bankBActive, hsr, hp]
  · have hreturn : s.returnAddress c = s.pc := by
      cases c <;> first | exact absurd rfl (hne _) | simp only [State.returnAddress, hslot]
    rw [htarget, hreturn, hpc]
  · rintro imm rfl
    rw [htarget]
    exact congrArg (fun x => some (⟨x, u.pc⟩ : Slot)) (s.ea_ea _)

/-! The instructions that trap. -/

/-- An instruction whose own effect is a trap enters it. -/
theorem enters_of_traps {i : Instr} {s : State} {c : Cause} (h : Traps i s c) : Enters i s c := by
  refine ⟨h, fun hv hread => ?_⟩
  obtain ⟨hssr, hspc⟩ := wrote_saveContext s c (s.handler c)
  exact ⟨_, Eq.trans h (trapEntry_of_reads hv hread), (s.getLsbD_sr_saveContext c 30).trans (if_pos rfl), rfl, hssr, hspc, rfl⟩

theorem traps_fatPrefix {i : Instr} {s : State} (h : exec i s = fatPrefix s) (hfat : s.params.hasFatLoad = true) :
    Traps i s .illegalInstruction := h.trans (if_pos hfat)

/-- Settles O23. -/
theorem trappingInstructions : Obligations.TrappingInstructions := by
  intro s x4 x8 imm x44 x60 w
  refine ⟨enters_of_traps rfl, fun hslot => enters_of_traps (settle_of_ok (State.requireNoSlot_of_none hslot)),
    fun hfat => ⟨enters_of_traps (traps_fatPrefix rfl hfat), enters_of_traps (traps_fatPrefix rfl hfat)⟩, fun i hi => ?_⟩
  refine enters_of_traps (?_ : exec i s = execIllegal s)
  revert i
  simp only [List.forall_mem_cons]
  exact ⟨rfl, rfl, rfl, rfl, rfl, rfl, rfl, rfl, rfl, rfl, rfl, rfl, rfl, rfl, rfl, rfl, rfl, rfl, rfl, rfl, rfl, rfl, rfl, rfl,
    rfl, rfl, rfl, rfl, rfl, rfl, rfl, rfl, rfl, rfl, rfl, rfl, rfl, rfl, rfl, rfl, rfl, by simp⟩

/-- Settles O21. -/
theorem slotIllegal : Obligations.SlotIllegal := by
  intro s sl m d8 d12 d24 d28 d40 d56 hslot
  have hno := State.requireNoSlot_of_some hslot
  have hfat : s.requireFatLoad = .error (.raise .slotIllegal s) := by rw [State.requireFatLoad, hno]; rfl
  refine ⟨?_, fun hrun => (settle_of_ok (State.requirePrivilege_of_mayRun hrun)).trans (settle_of_raise hno)⟩
  simp only [List.forall_mem_cons]
  exact ⟨settle_of_raise hno, settle_of_raise hno, settle_of_raise hno, settle_of_raise hno, settle_of_raise hno,
    settle_of_raise hno, settle_of_raise hno, settle_of_raise hno, settle_of_raise hno, settle_of_raise hno, settle_of_raise hno,
    settle_of_raise hno, finish_of_raise hno, finish_of_raise hno, finish_of_raise hfat, finish_of_raise hfat,
    finish_of_raise hfat, settle_of_raise hfat, settle_of_raise hfat, by simp⟩

/-- Settles O22. -/
theorem fpuDisabled : Obligations.FpuDisabled := by
  intro s m n r hfd
  have hfpu := State.requireFpu_of_disabled hfd
  have hgroup := State.requireFpuGroup_of_disabled hfd
  simp only [List.forall_mem_cons]
  exact ⟨finish_of_raise hgroup, finish_of_raise hgroup, finish_of_raise hgroup, finish_of_raise hgroup, finish_of_raise hgroup,
    finish_of_raise hgroup, finish_of_raise hgroup, finish_of_raise hgroup, finish_of_raise hgroup, finish_of_raise hgroup,
    finish_of_raise hgroup, finish_of_raise hgroup, finish_of_raise hgroup, finish_of_raise hgroup, finish_of_raise hgroup,
    finish_of_raise hgroup, finish_of_raise hgroup, finish_of_raise hgroup, finish_of_raise hgroup, finish_of_raise hgroup,
    finish_of_raise hgroup, finish_of_raise hgroup, finish_of_raise hgroup, finish_of_raise hgroup, finish_of_raise hgroup,
    finish_of_raise hgroup, finish_of_raise hfpu, finish_of_raise hfpu, finish_of_raise hfpu, finish_of_raise hfpu,
    finish_of_raise hfpu, finish_of_raise hfpu, finish_of_raise hfpu, finish_of_raise hfpu, by simp⟩

end Sys2Proof.Machine
end

section
/-!
PROOFS. What the default privileged set holds.
-/

namespace Sys2Proof.Machine

/-! Words under the masks of the set. -/

/-- A word without its second nibble. -/
theorem word4_and_F0FF (a b c d : Nibble) : word4 a b c d &&& 0xF0FF#16 = word4 a 0 c d := by
  refine BitVec.eq_of_getLsbD_eq fun k hk => ?_
  simp only [word4, BitVec.getLsbD_and, BitVec.getLsbD_append]
  interval_cases k <;> simp

/-- A word without its second nibble and the low bits of its third. -/
theorem word4_and_F08F (a b c d : Nibble) : word4 a b c d &&& 0xF08F#16 = word4 a 0 (c &&& 8) d := by
  refine BitVec.eq_of_getLsbD_eq fun k hk => ?_
  simp only [word4, BitVec.getLsbD_and, BitVec.getLsbD_append]
  interval_cases k <;> simp

theorem word4_inj {a b c d a' b' c' d' : Nibble} (h : word4 a b c d = word4 a' b' c' d') : a = a' ∧ b = b' ∧ c = c' ∧ d = d' :=
  ⟨by simpa using congrArg nibble3 h, by simpa using congrArg nibble2 h, by simpa using congrArg nibble1 h,
    by simpa using congrArg nibble0 h⟩

/-- A word that a pattern of a register field takes is one row, whatever the field. -/
theorem decodeWord_of_F0FF {w : InstrWord} {a c d : Nibble} {f : Reg → Instr} (hrow : ∀ b, decodeGroup a b c d = some (f b))
    (h : w.toNat &&& 0xF0FF = (word4 a 0 c d).toNat) : ∃ n, decodeWord w = f n := by
  obtain ⟨a', b, c', d', rfl⟩ := exists_word4 w
  have hmask : word4 a' b c' d' &&& 0xF0FF#16 = word4 a 0 c d := BitVec.eq_of_toNat_eq (by rw [BitVec.toNat_and]; exact h)
  obtain ⟨rfl, -, rfl, rfl⟩ := word4_inj ((word4_and_F0FF a' b c' d').symm.trans hmask)
  exact ⟨b, decodeWord_of_row (hrow b)⟩

/-- A word that a pattern of a register and a bank register takes is one row, whatever the fields. -/
theorem decodeWord_of_F08F {w : InstrWord} {a d : Nibble} {f : Reg → BankReg → Instr}
    (hrow : ∀ b c, c.msb = true → decodeGroup a b c d = some (f b (c.setWidth 3)))
    (h : w.toNat &&& 0xF08F = (word4 a 0 8 d).toNat) : ∃ n b, decodeWord w = f n b := by
  obtain ⟨a', b, c', d', rfl⟩ := exists_word4 w
  have hmask : word4 a' b c' d' &&& 0xF08F#16 = word4 a 0 8 d := BitVec.eq_of_toNat_eq (by rw [BitVec.toNat_and]; exact h)
  obtain ⟨rfl, -, hc, rfl⟩ := word4_inj ((word4_and_F08F a' b c' d').symm.trans hmask)
  have hmsb : c'.msb = true := by clear hmask h; revert c'; decide
  exact ⟨b, _, decodeWord_of_row (hrow b c' hmsb)⟩

theorem eq_of_FFFF {w v : InstrWord} (h : w.toNat &&& 0xFFFF = v.toNat) : w = v := by
  refine BitVec.eq_of_toNat_eq (Eq.trans ?_ h)
  rw [show 0xFFFF = 2 ^ 16 - 1 from rfl, Nat.and_two_pow_sub_one_eq_mod, Nat.mod_eq_of_lt w.isLt]

/-! The set. -/

/-- The instructions that 60 R531 lists, for given fields. -/
def listedPrivileged (n : Reg) (b : BankReg) : List Instr :=
  [.stcSr n, .stcVbr n, .stcSsr n, .stcSpc n, .stcDbr n, .stcBank b n, .stcSrPush n, .stcVbrPush n, .stcSsrPush n,
    .stcSpcPush n, .stcDbrPush n, .stcBankPush b n, .ldcSr n, .ldcVbr n, .ldcSsr n, .ldcSpc n, .ldcDbr n, .ldcBank n b,
    .ldcSrPop n, .ldcVbrPop n, .ldcSsrPop n, .ldcSpcPop n, .ldcDbrPop n, .ldcBankPop n b, .rte, .sleep, .flushtlb, .invtlb]

/-- A word that names a row of a register field is listed, where the row is for every field. -/
theorem listed_of_register {i : Instr} {f : Reg → Instr} (h : ∃ n, i = f n) (hf : ∀ n, f n ∈ listedPrivileged n 0) :
    ∃ n b, i ∈ listedPrivileged n b := h.elim fun n hn => ⟨n, 0, hn ▸ hf n⟩

theorem listed_of_bank {i : Instr} {f : Reg → BankReg → Instr} (h : ∃ n b, i = f n b)
    (hf : ∀ n b, f n b ∈ listedPrivileged n b) : ∃ n b, i ∈ listedPrivileged n b :=
  h.elim fun n hb => hb.elim fun b hn => ⟨n, b, hn ▸ hf n b⟩

/-- Every word that the default set takes is a listed instruction. -/
theorem listed_of_pattern {w : InstrWord} (h : ∃ p ∈ Config.conventionalPrivileged, w.toNat &&& p.mask = p.value) :
    ∃ n b, decodeWord w ∈ listedPrivileged n b := by
  have hreg {a c d : Nibble} {f : Reg → Instr} (h : w.toNat &&& 0xF0FF = (word4 a 0 c d).toNat)
      (hrow : ∀ b, decodeGroup a b c d = some (f b)) (hf : ∀ n, f n ∈ listedPrivileged n 0) :
      ∃ n b, decodeWord w ∈ listedPrivileged n b := listed_of_register (decodeWord_of_F0FF hrow h) hf
  have hbank {a d : Nibble} {f : Reg → BankReg → Instr} (h : w.toNat &&& 0xF08F = (word4 a 0 8 d).toNat)
      (hrow : ∀ b c, c.msb = true → decodeGroup a b c d = some (f b (c.setWidth 3)))
      (hf : ∀ n b, f n b ∈ listedPrivileged n b) :
      ∃ n b, decodeWord w ∈ listedPrivileged n b := listed_of_bank (decodeWord_of_F08F hrow h) hf
  have hone {v : InstrWord} {i : Instr} (h : w.toNat &&& 0xFFFF = v.toNat) (hrow : decodeWord v = i)
      (hf : i ∈ listedPrivileged 0 0) : ∃ n b, decodeWord w ∈ listedPrivileged n b :=
    ⟨0, 0, by rw [eq_of_FFFF h, hrow]; exact hf⟩
  obtain ⟨p, hp, hmatch⟩ := h
  simp only [Config.conventionalPrivileged, List.mem_cons, List.not_mem_nil, or_false] at hp
  rcases hp with rfl | rfl | rfl | rfl | rfl | rfl | rfl | rfl | rfl | rfl | rfl | rfl | rfl | rfl | rfl | rfl | rfl | rfl | rfl |
    rfl | rfl | rfl | rfl | rfl | rfl | rfl | rfl | rfl
  · exact hreg (a := 0x0) (c := 0x0) (d := 0x2) hmatch (fun _ => rfl) fun _ => by simp [listedPrivileged]
  · exact hreg (a := 0x0) (c := 0x2) (d := 0x2) hmatch (fun _ => rfl) fun _ => by simp [listedPrivileged]
  · exact hreg (a := 0x0) (c := 0x3) (d := 0x2) hmatch (fun _ => rfl) fun _ => by simp [listedPrivileged]
  · exact hreg (a := 0x0) (c := 0x4) (d := 0x2) hmatch (fun _ => rfl) fun _ => by simp [listedPrivileged]
  · exact hreg (a := 0x0) (c := 0x5) (d := 0x2) hmatch (fun _ => rfl) fun _ => by simp [listedPrivileged]
  · exact hbank (a := 0x0) (d := 0x2) (f := fun n b => .stcBank b n) hmatch (fun _ _ hc => by simp [decodeGroup, decodeGroup0, hc])
      fun _ _ => by simp [listedPrivileged]
  · exact hreg (a := 0x4) (c := 0x0) (d := 0x3) hmatch (fun _ => rfl) fun _ => by simp [listedPrivileged]
  · exact hreg (a := 0x4) (c := 0x2) (d := 0x3) hmatch (fun _ => rfl) fun _ => by simp [listedPrivileged]
  · exact hreg (a := 0x4) (c := 0x3) (d := 0x3) hmatch (fun _ => rfl) fun _ => by simp [listedPrivileged]
  · exact hreg (a := 0x4) (c := 0x4) (d := 0x3) hmatch (fun _ => rfl) fun _ => by simp [listedPrivileged]
  · exact hreg (a := 0x4) (c := 0x5) (d := 0x3) hmatch (fun _ => rfl) fun _ => by simp [listedPrivileged]
  · exact hbank (a := 0x4) (d := 0x3) (f := fun n b => .stcBankPush b n) hmatch (fun _ _ hc => by simp [decodeGroup, decodeGroup4, hc])
      fun _ _ => by simp [listedPrivileged]
  · exact hreg (a := 0x4) (c := 0x0) (d := 0xE) hmatch (fun _ => rfl) fun _ => by simp [listedPrivileged]
  · exact hreg (a := 0x4) (c := 0x2) (d := 0xE) hmatch (fun _ => rfl) fun _ => by simp [listedPrivileged]
  · exact hreg (a := 0x4) (c := 0x3) (d := 0xE) hmatch (fun _ => rfl) fun _ => by simp [listedPrivileged]
  · exact hreg (a := 0x4) (c := 0x4) (d := 0xE) hmatch (fun _ => rfl) fun _ => by simp [listedPrivileged]
  · exact hreg (a := 0x4) (c := 0x5) (d := 0xE) hmatch (fun _ => rfl) fun _ => by simp [listedPrivileged]
  · exact hbank (a := 0x4) (d := 0xE) (f := fun n b => .ldcBank n b) hmatch (fun _ _ hc => by simp [decodeGroup, decodeGroup4, hc])
      fun _ _ => by simp [listedPrivileged]
  · exact hreg (a := 0x4) (c := 0x0) (d := 0x7) hmatch (fun _ => rfl) fun _ => by simp [listedPrivileged]
  · exact hreg (a := 0x4) (c := 0x2) (d := 0x7) hmatch (fun _ => rfl) fun _ => by simp [listedPrivileged]
  · exact hreg (a := 0x4) (c := 0x3) (d := 0x7) hmatch (fun _ => rfl) fun _ => by simp [listedPrivileged]
  · exact hreg (a := 0x4) (c := 0x4) (d := 0x7) hmatch (fun _ => rfl) fun _ => by simp [listedPrivileged]
  · exact hreg (a := 0x4) (c := 0x5) (d := 0x7) hmatch (fun _ => rfl) fun _ => by simp [listedPrivileged]
  · exact hbank (a := 0x4) (d := 0x7) (f := fun n b => .ldcBankPop n b) hmatch (fun _ _ hc => by simp [decodeGroup, decodeGroup4, hc])
      fun _ _ => by simp [listedPrivileged]
  · exact hone (v := 0x002B) (i := .rte) hmatch rfl (by simp [listedPrivileged])
  · exact hone (v := 0x001B) (i := .sleep) hmatch rfl (by simp [listedPrivileged])
  · exact hone (v := 0x00A8) (i := .flushtlb) hmatch rfl (by simp [listedPrivileged])
  · exact hone (v := 0x00B8) (i := .invtlb) hmatch rfl (by simp [listedPrivileged])

/-- What the default set takes is listed. -/
theorem listed_of_isIn {i : Instr} (hwf : i.wellFormed = true) (h : isIn Config.conventionalPrivileged i = true) :
    ∃ n b, i ∈ listedPrivileged n b := by
  simp only [isIn, List.any_eq_true, Bool.and_eq_true, beq_iff_eq] at h
  obtain ⟨p, hp, hlen, hbits⟩ := h
  have hwords : p.words = 1 := (by decide : ∀ q ∈ Config.conventionalPrivileged, q.words = 1) p hp
  have htail : encodeTail i = [] := by
    rw [hwords, encode, List.length_cons] at hlen
    exact List.eq_nil_of_length_eq_zero (by omega)
  rw [encodedBits, encode, htail] at hbits
  have hlisted := listed_of_pattern (w := encodeWord i) ⟨p, hp, by simpa using hbits⟩
  rwa [decodeWord_encodeWord hwf htail] at hlisted

/-- An instruction that checks its privilege first traps where it has none. -/
theorem traps_of_privilege {i : Instr} {s : State} {k : Unit → Except Abort State} {len : BitVec 64}
    (h : exec i s = finish (s.requirePrivilege i >>= k) len) (hrun : s.mayRun i = false) : Traps i s .illegalInstruction :=
  h.trans (finish_of_raise (State.requirePrivilege_of_not hrun))

/-- Settles O20. -/
theorem privilegedInUserMode : Obligations.PrivilegedInUserMode := by
  refine ⟨fun s i => by simp [State.mayRun], fun _ => listed_of_isIn, fun s n b i hi =>
    ⟨isIn_conventionalPrivileged n b i hi, ?_⟩⟩
  revert i
  simp only [List.forall_mem_cons]
  exact ⟨traps_of_privilege rfl, traps_of_privilege rfl, traps_of_privilege rfl, traps_of_privilege rfl, traps_of_privilege rfl,
    traps_of_privilege rfl, traps_of_privilege rfl, traps_of_privilege rfl, traps_of_privilege rfl, traps_of_privilege rfl,
    traps_of_privilege rfl, traps_of_privilege rfl, traps_of_privilege rfl, traps_of_privilege rfl, traps_of_privilege rfl,
    traps_of_privilege rfl, traps_of_privilege rfl, traps_of_privilege rfl, traps_of_privilege rfl, traps_of_privilege rfl,
    traps_of_privilege rfl, traps_of_privilege rfl, traps_of_privilege rfl, traps_of_privilege rfl,
    fun hrun => settle_of_raise (State.requirePrivilege_of_not hrun), traps_of_privilege rfl, traps_of_privilege rfl,
    traps_of_privilege rfl, by simp⟩

end Sys2Proof.Machine
end

section
/-!
PROOFS. The cases to which the spec gives no meaning.
-/

namespace Sys2Proof.Machine

/-! Refused checks. -/

theorem demand_of_not {b : Bool} {r : Refusal} (h : b = false) : demand b r = .error (.refuse r) := by rw [h]; rfl

theorem demand_of {b : Bool} {r : Refusal} (h : b = true) : demand b r = .ok () := by rw [h]; rfl

theorem State.requireFatLoad_of_absent {s : State} (hslot : s.slot = none) (h : s.params.hasFatLoad = false) :
    s.requireFatLoad = .error (.refuse .fatLoadAbsent) := by
  simp only [State.requireFatLoad, State.requireNoSlot_of_none hslot, demand_of_not h]; rfl

theorem State.requireFpuGroup_of_bank {s : State} (hfd : s.fd = false) (h : s.fpBank = true) :
    s.requireFpuGroup = .error (.refuse .fpuBank) := by
  simp only [State.requireFpuGroup, State.requireFpu_of_enabled hfd, demand_of_not (b := !s.fpBank) (by rw [h]; rfl)]; rfl

theorem State.requireFpMode_of_reserved {s : State} (haq : s.aq = true) (h : s.fpPrec = true) :
    s.requireFpMode = .error (.refuse .fpuReservedMode) := by
  simp only [State.requireFpMode, State.fpMode?, haq, h]

theorem State.requireTransfer_of_size {s : State} (haq : s.aq = true) (h : s.fpSize = false) (i : FReg) :
    s.requireTransfer i = .error (.refuse .fpuMoveSize) := by
  simp only [State.requireTransfer, haq, h]

theorem State.requireTransfer_of_odd {s : State} (haq : s.aq = false) (hsize : s.fpSize = true) {i : FReg}
    (h : i.getLsbD 0 = true) : s.requireTransfer i = .error (.refuse .fpuOddPair) := by
  simp only [State.requireTransfer, haq, hsize, h, if_true]

theorem requireOperand_of_odd {i : FReg} (h : i.getLsbD 0 = true) : requireOperand .split i = .error (.refuse .fpuOddPair) :=
  demand_of_not (by rw [h]; rfl)

theorem requireOperand_of_even {i : FReg} (h : i.getLsbD 0 = false) : requireOperand .split i = .ok () :=
  demand_of (by rw [h]; rfl)

/-- Two operand fields of which one is odd, in split-double mode. -/
theorem finish_of_odd {m n : FReg} (h : m.getLsbD 0 = true ∨ n.getLsbD 0 = true) (k : Unit → Except Abort State) :
    finish (do requireOperand .split m; requireOperand .split n >>= k) = .refused .fpuOddPair := by
  cases hm : m.getLsbD 0
  · rw [hm] at h
    exact (finish_of_ok (requireOperand_of_even hm)).trans (finish_of_refuse (requireOperand_of_odd (by simpa using h)))
  · exact finish_of_refuse (requireOperand_of_odd hm)

/-! The clauses. -/

theorem stops_fatLoad {s : State} {r : Reg} {d24 : BitVec 24} {d28 : BitVec 28} {d40 : BitVec 40} {d56 : BitVec 56}
    (hfat : s.params.hasFatLoad = false) (hslot : s.slot = none) : ∀ i ∈ [Instr.ldfatL, .ldfatQ, .ldfatMov24 d24 r,
      .ldfatMov40 d40 r, .ldfatMov56 d56 r, .ldfatBra d28, .ldfatBsr d28], exec i s = .refused .fatLoadAbsent := by
  have hcheck := State.requireFatLoad_of_absent hslot hfat
  have hopen : fatPrefix s = .refused .fatLoadAbsent := (if_neg (by simp [hfat])).trans (settle_of_refuse hcheck)
  simp only [List.forall_mem_cons]
  exact ⟨hopen, hopen, finish_of_refuse hcheck, finish_of_refuse hcheck, finish_of_refuse hcheck, settle_of_refuse hcheck,
    settle_of_refuse hcheck, by simp⟩

theorem stops_fpuBank {s : State} {m n : FReg} {r : Reg} (hfd : s.fd = false) (hbank : s.fpBank = true) :
    ∀ i ∈ [Instr.fadd m n, .fsub m n, .fmul m n, .fdiv m n, .fcmpeq m n, .fcmpgt m n,
      .fmovLoadIdx r n, .fmovStoreIdx m r, .fmovLoad r n, .fmovPop r n, .fmovStore m r, .fmovPush m r, .fmov m n, .fsts n, .flds m,
      .float n, .ftrc m, .fneg n, .fabs n, .fsqrt n, .fldi0 n, .fldi1 n, .fcnvsd n, .fcnvds m, .fschg, .fmac m n],
      exec i s = .refused .fpuBank := by
  have hcheck := State.requireFpuGroup_of_bank hfd hbank
  simp only [List.forall_mem_cons]
  exact ⟨finish_of_refuse hcheck, finish_of_refuse hcheck, finish_of_refuse hcheck, finish_of_refuse hcheck,
    finish_of_refuse hcheck, finish_of_refuse hcheck, finish_of_refuse hcheck, finish_of_refuse hcheck, finish_of_refuse hcheck,
    finish_of_refuse hcheck, finish_of_refuse hcheck, finish_of_refuse hcheck, finish_of_refuse hcheck, finish_of_refuse hcheck,
    finish_of_refuse hcheck, finish_of_refuse hcheck, finish_of_refuse hcheck, finish_of_refuse hcheck, finish_of_refuse hcheck,
    finish_of_refuse hcheck, finish_of_refuse hcheck, finish_of_refuse hcheck, finish_of_refuse hcheck, finish_of_refuse hcheck,
    finish_of_refuse hcheck, finish_of_refuse hcheck, by simp⟩

/-- An FPU instruction that is refused after its first check. -/
theorem refused_in_group {i : Instr} {s : State} {α : Type} {m : Except Abort α} {k : α → Except Abort State} {r : Refusal}
    (hgroup : s.requireFpuGroup = .ok ()) (h : exec i s = finish (do s.requireFpuGroup; m >>= k)) (hm : m = .error (.refuse r)) :
    exec i s = .refused r := h.trans ((finish_of_ok hgroup).trans (finish_of_refuse hm))

theorem stops_reservedMode {s : State} {m n : FReg} (hfd : s.fd = false) (hbank : s.fpBank = false) (haq : s.aq = true)
    (hprec : s.fpPrec = true) : ∀ i ∈ [Instr.fadd m n, .fsub m n, .fmul m n, .fdiv m n,
      .fcmpeq m n, .fcmpgt m n, .float n, .ftrc m, .fneg n, .fabs n, .fsqrt n, .fldi0 n, .fldi1 n, .fcnvsd n, .fcnvds m, .fmac m n],
      exec i s = .refused .fpuReservedMode := by
  have hgroup := State.requireFpuGroup_of_ready hfd hbank
  have hmode := State.requireFpMode_of_reserved haq hprec
  simp only [List.forall_mem_cons]
  exact ⟨refused_in_group hgroup rfl hmode, refused_in_group hgroup rfl hmode, refused_in_group hgroup rfl hmode,
    refused_in_group hgroup rfl hmode, refused_in_group hgroup rfl hmode, refused_in_group hgroup rfl hmode,
    refused_in_group hgroup rfl hmode, refused_in_group hgroup rfl hmode, refused_in_group hgroup rfl hmode,
    refused_in_group hgroup rfl hmode, refused_in_group hgroup rfl hmode, refused_in_group hgroup rfl hmode,
    refused_in_group hgroup rfl hmode, refused_in_group hgroup rfl hmode, refused_in_group hgroup rfl hmode,
    refused_in_group hgroup rfl hmode, by simp⟩

/-- Where the transfer of an FPU register field is refused, every `FMOV.S` of it is. -/
theorem stops_transfer {s : State} {n : FReg} {r : Reg} {e : Refusal} (hfd : s.fd = false) (hbank : s.fpBank = false)
    (h : s.requireTransfer n = .error (.refuse e)) :
    exec (.fmovLoadIdx r n) s = .refused e ∧ exec (.fmovStoreIdx n r) s = .refused e ∧ exec (.fmovLoad r n) s = .refused e ∧
      exec (.fmovPop r n) s = .refused e ∧ exec (.fmovStore n r) s = .refused e ∧ exec (.fmovPush n r) s = .refused e := by
  have hgroup := State.requireFpuGroup_of_ready hfd hbank
  exact ⟨refused_in_group hgroup rfl h, refused_in_group hgroup rfl h, refused_in_group hgroup rfl h,
    refused_in_group hgroup rfl h, refused_in_group hgroup rfl h, refused_in_group hgroup rfl h⟩

/-- An FPU calculation past the check of its mode. -/
theorem exec_in_mode {i : Instr} {s : State} {md : FpMode} {k : FpMode → Except Abort State} (h : s.FpuReady md)
    (hexec : exec i s = finish (do
      s.requireFpuGroup
      let md ← s.requireFpMode
      k md)) : exec i s = finish (k md) :=
  hexec.trans ((finish_of_ok (State.requireFpuGroup_of_ready h.enabled h.bank)).trans
    (finish_of_ok (State.requireFpMode_of_ready h.mode)))

theorem stops_split {s : State} {m n : FReg} (h : s.FpuReady .split) :
    (∀ i ∈ [Instr.fldi0 n, .fldi1 n, .fmac m n], exec i s = .refused .fpuSplitDouble) ∧
      (m.getLsbD 0 = true ∨ n.getLsbD 0 = true → ∀ i ∈ [Instr.fadd m n, .fsub m n, .fmul m n, .fdiv m n, .fcmpeq m n, .fcmpgt m n],
        exec i s = .refused .fpuOddPair) ∧
      (n.getLsbD 0 = true → ∀ i ∈ [Instr.float n, .ftrc n, .fneg n, .fabs n, .fsqrt n, .fcnvsd n, .fcnvds n],
        exec i s = .refused .fpuOddPair) := by
  simp only [List.forall_mem_cons]
  refine ⟨⟨(exec_in_mode h rfl).trans rfl, (exec_in_mode h rfl).trans rfl,
    (exec_in_mode h rfl).trans (finish_of_refuse (demand_of_not rfl)), by simp⟩, fun hodd => ?_, fun hodd => ?_⟩
  · have hpair := finish_of_odd hodd
    exact ⟨(exec_in_mode h rfl).trans (hpair _), (exec_in_mode h rfl).trans (hpair _), (exec_in_mode h rfl).trans (hpair _),
      (exec_in_mode h rfl).trans (hpair _), (exec_in_mode h rfl).trans (hpair _), (exec_in_mode h rfl).trans (hpair _), by simp⟩
  · have hcheck := requireOperand_of_odd hodd
    exact ⟨(exec_in_mode h rfl).trans (finish_of_refuse hcheck), (exec_in_mode h rfl).trans (finish_of_refuse hcheck),
      (exec_in_mode h rfl).trans (finish_of_refuse hcheck), (exec_in_mode h rfl).trans (finish_of_refuse hcheck),
      (exec_in_mode h rfl).trans (finish_of_refuse hcheck), (exec_in_mode h rfl).trans (finish_of_refuse hcheck),
      (exec_in_mode h rfl).trans (finish_of_refuse hcheck), by simp⟩

theorem stops_fmov_odd {s : State} {m n : FReg} (hfd : s.fd = false) (hbank : s.fpBank = false) (haq : s.aq = false)
    (hsize : s.fpSize = true) (hodd : m.getLsbD 0 = true ∨ n.getLsbD 0 = true) : exec (.fmov m n) s = .refused .fpuOddPair := by
  have hcheck : demand (!m.getLsbD 0 && !n.getLsbD 0) .fpuOddPair = .error (.refuse .fpuOddPair) :=
    demand_of_not (by rcases hodd with h | h <;> rw [h] <;> simp)
  have hexec : exec (.fmov m n) s = _ := finish_of_ok (State.requireFpuGroup_of_ready hfd hbank)
  rw [hexec, haq, hsize]
  exact finish_of_refuse hcheck

theorem stops_aqWithoutDq {s : State} (hmmu : s.params.hasMMU = false) (hacc : s.accepted = none) (hawake : s.asleep = false)
    (haq : s.aq = true) (hdq : s.dq = false) (hallow : s.params.allowAQwithoutDQ = false) :
    step s = .refused .aqWithoutDq := by
  have hmode : s.modeAllowed = false := by simp [State.modeAllowed, haq, hdq, hallow]
  have hfinal : s.final = false := by simp [State.final, hmode]
  simp [step, hmmu, hfinal, hacc, hawake, hmode]

/-- Settles O24. -/
theorem stopsByName : Obligations.StopsByName := by
  intro s m n r q d24 d28 d40 d56
  refine ⟨fun hw => ⟨finish_of_refuse (demand_of_not (by simp [hw])), finish_of_refuse (demand_of_not (by simp [hw]))⟩,
    stops_fatLoad, stops_fpuBank, stops_reservedMode, fun hfd hbank haq hsize => ?size, stops_split,
    fun hfd hbank haq hsize => ⟨fun hodd => ?pair, stops_fmov_odd hfd hbank haq hsize⟩, fun h => ?single, stops_aqWithoutDq,
    fun hmmu => by simp [step, hmmu]⟩
  case size =>
    obtain ⟨hli, -, hl, hpop, -, -⟩ := stops_transfer (r := r) hfd hbank (State.requireTransfer_of_size haq hsize n)
    obtain ⟨-, hsi, -, -, hs, hpush⟩ := stops_transfer (r := r) hfd hbank (State.requireTransfer_of_size haq hsize m)
    simp only [List.forall_mem_cons]
    exact ⟨hli, hsi, hl, hpop, hs, hpush, by simp⟩
  case pair =>
    obtain ⟨hli, hsi, hl, hpop, hs, hpush⟩ := stops_transfer (r := r) hfd hbank (State.requireTransfer_of_odd haq hsize hodd)
    simp only [List.forall_mem_cons]
    exact ⟨hli, hsi, hl, hpop, hs, hpush, by simp⟩
  case single =>
    simp only [List.forall_mem_cons]
    have hfield : ∀ i : FReg, requireOperand .single i = .ok () := fun i => requireOperand_of_takes fun e => by cases e
    exact ⟨(exec_in_mode h rfl).trans (finish_of_ok (hfield n)), (exec_in_mode h rfl).trans (finish_of_ok (hfield m)), by simp⟩

end Sys2Proof.Machine
end

section
/-!
PROOFS. Accesses to devices, and stores to read-only memory.
-/

namespace Sys2Proof.Machine

/-! The memory operations at a device, and at read-only memory. -/

theorem State.load_of_onDevice {s : State} {w : Nat} {a : BitVec w} {count : Nat}
    (h : s.OnDevice (s.ea (a.setWidth 64)) count count) : s.load a count = .error (.refuse .deviceAccess) := by
  rw [State.load, State.readMem_of_onDevice h]; rfl

theorem State.store_of_onDevice {s : State} {wa w count : Nat} {a : BitVec wa} {v : BitVec w}
    (h : s.OnDevice (s.ea (a.setWidth 64)) count count) : s.store a count v = .error (.refuse .deviceAccess) := by
  rw [State.store, State.writeMem, State.checkAccess_of_onDevice h]; rfl

theorem State.store_of_onRom {s : State} {wa w count : Nat} {a : BitVec wa} {v : BitVec w}
    (h : s.OnRom (s.ea (a.setWidth 64)) count count) : s.store a count v = .error (.refuse .romWrite) := by
  rw [State.store, State.writeMem, State.checkAccess_of_onRom h]; rfl

theorem State.popAt_of_onDevice {s : State} {m : Reg} {count : Nat}
    (h : s.OnDevice (s.ea ((s.x m).setWidth 64)) count count) : s.popAt m count = .error (.refuse .deviceAccess) := by
  rw [State.popAt, State.load_of_onDevice h]; rfl

theorem State.loadInto_of_onDevice {s : State} {w : Nat} {a : BitVec w} {count : Nat} {n : Reg}
    (h : s.OnDevice (s.ea (a.setWidth 64)) count count) : s.loadInto a count n = .refused .deviceAccess :=
  finish_of_refuse (State.load_of_onDevice h)

theorem State.popInto_of_onDevice {s : State} {m n : Reg} {count : Nat}
    (h : s.OnDevice (s.ea ((s.x m).setWidth 64)) count count) : s.popInto m n count = .refused .deviceAccess :=
  finish_of_refuse (State.load_of_onDevice h)

/-- An instruction whose store is refused. -/
theorem finish_of_store {s : State} {wa w count : Nat} {a : BitVec wa} {v : BitVec w} :
    (s.OnDevice (s.ea (a.setWidth 64)) count count → ∀ k : State → Except Abort State,
      finish (s.store a count v >>= k) = .refused .deviceAccess) ∧
    (s.OnRom (s.ea (a.setWidth 64)) count count → ∀ k : State → Except Abort State,
      finish (s.store a count v >>= k) = .refused .romWrite) :=
  ⟨fun h _ => finish_of_refuse (State.store_of_onDevice h), fun h _ => finish_of_refuse (State.store_of_onRom h)⟩

/-! Instructions that are refused, by their accesses. -/

/-- The instruction of one access is refused at a device. -/
def RefusesDevice (s : State) (p : Instr × BitVec s.W × Nat) : Prop :=
  s.OnDevice (s.ea (p.2.1.setWidth 64)) p.2.2 p.2.2 → exec p.1 s = .refused .deviceAccess

/-- The instruction of one store is refused at a device and at read-only memory. -/
def RefusesStore (s : State) (p : Instr × BitVec s.W × Nat) : Prop :=
  RefusesDevice s p ∧ (s.OnRom (s.ea (p.2.1.setWidth 64)) p.2.2 p.2.2 → exec p.1 s = .refused .romWrite)

theorem devicesRefuse_iff {s : State} {l : List (Instr × BitVec s.W × Nat)} : DevicesRefuse s l ↔ ∀ p ∈ l, RefusesDevice s p :=
  Iff.rfl

theorem storesRefuse_iff {s : State} {l : List (Instr × BitVec s.W × Nat)} : StoresRefuse s l ↔ ∀ p ∈ l, RefusesStore s p :=
  ⟨fun h p hp => ⟨h.1 p hp, h.2 p hp⟩, fun h => ⟨fun p hp => (h p hp).1, fun p hp => (h p hp).2⟩⟩

theorem refuses_of_loadInto {i : Instr} {s : State} {a : BitVec s.W} {count : Nat} {n : Reg}
    (h : exec i s = s.loadInto a count n) : RefusesDevice s (i, a, count) :=
  fun hdev => h.trans (State.loadInto_of_onDevice hdev)

theorem refuses_of_popInto {i : Instr} {s : State} {m n : Reg} {count : Nat}
    (h : exec i s = s.popInto m n count) : RefusesDevice s (i, s.x m, count) :=
  fun hdev => h.trans (State.popInto_of_onDevice hdev)

theorem refuses_of_read {i : Instr} {s : State} {a : BitVec s.W} {count : Nat}
    {k : BitVec (8 * count) → Except Abort State} (h : exec i s = finish (s.readMem s.localOrder (a.setWidth 64) count >>= k)) :
    RefusesDevice s (i, a, count) := fun hdev => h.trans (finish_of_refuse (State.readMem_of_onDevice hdev))

/-- A pop of a special register, past its check. -/
theorem refuses_of_popAt {i : Instr} {s : State} {check : Except Abort Unit} {m : Reg} {count : Nat}
    {k : BitVec s.W × State → Except Abort State} (hcheck : check = .ok ())
    (h : exec i s = finish (do check; s.popAt m count >>= k)) : RefusesDevice s (i, s.x m, count) :=
  fun hdev => h.trans ((finish_of_ok hcheck).trans (finish_of_refuse (State.popAt_of_onDevice hdev)))

theorem refuses_of_storeAt {i : Instr} {s : State} {a v : BitVec s.W} {count : Nat} (h : exec i s = s.storeAt a count v) :
    RefusesStore s (i, a, count) :=
  ⟨fun hdev => h.trans (congrArg finish (State.store_of_onDevice hdev)),
    fun hrom => h.trans (congrArg finish (State.store_of_onRom hrom))⟩

theorem refuses_of_pushAt {i : Instr} {s : State} {n : Reg} {v : BitVec s.W} {count : Nat}
    (h : exec i s = finish (s.pushAt n count v)) : RefusesStore s (i, s.x n - BitVec.ofNat s.W count, count) :=
  ⟨fun hdev => h.trans (finish_of_refuse (State.store_of_onDevice hdev)),
    fun hrom => h.trans (finish_of_refuse (State.store_of_onRom hrom))⟩

/-! FPU transfers. -/

/-- The transfer case of `FMOV.S` (48 R458). -/
def State.fpTransfer (s : State) : FpTransfer := if s.fpSize then (if s.aq then .double else .pair) else .single

theorem State.size_fpTransfer (s : State) : s.fpTransfer.size = s.fpBytes := by
  rw [State.fpTransfer, State.fpBytes]
  cases s.fpSize <;> cases s.aq <;> rfl

theorem State.FpMoves.requireTransfer {s : State} {i : FReg} (h : s.FpMoves i) : s.requireTransfer i = .ok s.fpTransfer := by
  have hsize := h.size
  have hpair := h.pair
  rw [State.requireTransfer, State.fpTransfer]
  cases haq : s.aq <;> cases hsz : s.fpSize <;> simp_all

theorem State.FpMoves.requireFpuGroup {s : State} {i : FReg} (h : s.FpMoves i) : s.requireFpuGroup = .ok () :=
  State.requireFpuGroup_of_ready h.enabled h.bank

theorem State.fpLoad_of_error {s : State} {t : FpTransfer} {w : Nat} {a : BitVec w} {e : Abort}
    (h : s.checkAccess .read (s.ea (a.setWidth 64)) t.size t.size = .error e) : s.fpLoad t a = .error e := by
  cases t <;> simp only [FpTransfer.size] at h <;> simp only [State.fpLoad, State.readMem, h] <;> rfl

theorem State.fpStore_of_error {s : State} {t : FpTransfer} {w : Nat} {a : BitVec w} {i : FReg} {e : Abort}
    (h : s.checkAccess .write (s.ea (a.setWidth 64)) t.size t.size = .error e) : s.fpStore t a i = .error e := by
  cases t <;> simp only [FpTransfer.size] at h <;> simp only [State.fpStore, State.store, State.writeMem, h] <;> rfl

/-- An `FMOV.S` past its checks. -/
theorem exec_transfer {i : Instr} {s : State} {f : FReg} {k : FpTransfer → Except Abort State} (h : s.FpMoves f)
    (hexec : exec i s = finish (do
      s.requireFpuGroup
      let t ← s.requireTransfer f
      k t)) : exec i s = finish (k s.fpTransfer) :=
  hexec.trans ((finish_of_ok h.requireFpuGroup).trans (finish_of_ok h.requireTransfer))

theorem State.setWidth_self (s : State) (a : BitVec s.W) : (a.setWidth 64).setWidth 64 = a.setWidth 64 :=
  BitVec.setWidth_eq _

theorem refuses_of_fpLoad {i : Instr} {s : State} {f : FReg} {w : Nat} {b : BitVec w} {a : BitVec s.W}
    {k : FpTransfer → BitVec 64 → Except Abort State} (h : s.FpMoves f) (hb : b.setWidth 64 = a.setWidth 64)
    (hexec : exec i s = finish (do
      s.requireFpuGroup
      let t ← s.requireTransfer f
      s.fpLoad t b >>= k t)) : RefusesDevice s (i, a, s.fpBytes) := fun hdev => by
  refine (exec_transfer h hexec).trans (finish_of_refuse (State.fpLoad_of_error ?_))
  rw [hb, s.size_fpTransfer]
  exact State.checkAccess_of_onDevice hdev

theorem refuses_of_fpStore {i : Instr} {s : State} {f : FReg} {w : Nat} {b : BitVec w} {a : BitVec s.W}
    {k : FpTransfer → Except Abort State} (h : s.FpMoves f) (hb : b.setWidth 64 = a.setWidth 64)
    (hexec : exec i s = finish (do
      s.requireFpuGroup
      let t ← s.requireTransfer f
      k t))
    (hk : ∀ r, s.fpStore s.fpTransfer b f = .error (.refuse r) → finish (k s.fpTransfer) = .refused r) :
    RefusesStore s (i, a, s.fpBytes) := by
  refine ⟨fun hdev => ?_, fun hrom => ?_⟩
  · refine (exec_transfer h hexec).trans (hk _ (State.fpStore_of_error ?_))
    rw [hb, s.size_fpTransfer]
    exact State.checkAccess_of_onDevice hdev
  · refine (exec_transfer h hexec).trans (hk _ (State.fpStore_of_error ?_))
    rw [hb, s.size_fpTransfer]
    exact State.checkAccess_of_onRom hrom

/-! The clauses of the statement. -/

theorem deviceLoads (s : State) (m n : Reg) (d4 : BitVec 4) (d8 : BitVec 8) :
    DevicesRefuse s [(.movBLoadIdx m n, s.x 0 + s.x m, 1), (.movWqLoadIdx m n, s.x 0 + s.x m, s.szWQ),
      (.movLLoadIdx m n, s.x 0 + s.x m, 4), (.movWLoadR0 m, s.x m, 2), (.movWLoad m n, s.x m, 2),
      (.movBLoad m n, s.x m, 1), (.movWqLoad m n, s.x m, s.szWQ), (.movLLoad m n, s.x m, 4),
      (.movLLoadDisp m d4 n, s.x m + BitVec.ofNat s.W (4 * d4.toNat), 4),
      (.movBLoadR0Disp m d4, s.x m + BitVec.ofNat s.W d4.toNat, 1),
      (.movWqLoadR0Disp m d4, s.x m + BitVec.ofNat s.W (s.szWQ * d4.toNat), s.szWQ),
      (.movWqLoadDisp m d4 n, s.x m + BitVec.ofNat s.W (s.szWQ * d4.toNat), s.szWQ),
      (.movBLoadGbr d8, s.readSpecial .gbr + BitVec.ofNat s.W d8.toNat, 1),
      (.movWqLoadGbr d8, s.readSpecial .gbr + BitVec.ofNat s.W (s.szWQ * d8.toNat), s.szWQ),
      (.movLLoadGbr d8, s.readSpecial .gbr + BitVec.ofNat s.W (4 * d8.toNat), 4), (.movBPop m n, s.x m, 1),
      (.movWqPop m n, s.x m, s.szWQ), (.movLPop m n, s.x m, 4), (.tasB m, s.x m, 1), (.casL m n, s.x 0, 4),
      (.tstB d8, s.readSpecial .gbr + s.x 0, 1), (.andB d8, s.readSpecial .gbr + s.x 0, 1),
      (.xorB d8, s.readSpecial .gbr + s.x 0, 1), (.orB d8, s.readSpecial .gbr + s.x 0, 1),
      (.ldsMachPop m, s.x m, s.szLQ), (.ldsMaclPop m, s.x m, s.szLQ), (.ldsPrPop m, s.x m, s.szLQ),
      (.ldcGbrPop m, s.x m, s.szLQ)] := by
  rw [← State.offset_one s d4, ← State.offset_one s d8, devicesRefuse_iff]
  simp only [List.forall_mem_cons]
  exact ⟨refuses_of_loadInto rfl, refuses_of_loadInto rfl, refuses_of_loadInto rfl, refuses_of_loadInto rfl,
    refuses_of_loadInto rfl, refuses_of_loadInto rfl, refuses_of_loadInto rfl, refuses_of_loadInto rfl, refuses_of_loadInto rfl,
    refuses_of_loadInto rfl, refuses_of_loadInto rfl, refuses_of_loadInto rfl, refuses_of_loadInto rfl, refuses_of_loadInto rfl,
    refuses_of_loadInto rfl, refuses_of_popInto rfl, refuses_of_popInto rfl, refuses_of_popInto rfl, refuses_of_read rfl,
    refuses_of_read rfl, refuses_of_read rfl, refuses_of_read rfl, refuses_of_read rfl, refuses_of_read rfl,
    refuses_of_popAt rfl rfl, refuses_of_popAt rfl rfl, refuses_of_popAt rfl rfl, refuses_of_popAt rfl rfl, by simp⟩

theorem devicePops_privileged (s : State) (m : Reg) (b : BankReg) :
    ∀ i ∈ [Instr.ldcSrPop m, .ldcVbrPop m, .ldcSsrPop m, .ldcSpcPop m, .ldcDbrPop m, .ldcBankPop m b], s.mayRun i = true →
      DevicesRefuse s [(i, s.x m, s.szLQ)] := by
  simp only [devicesRefuse_iff, List.forall_mem_cons, List.not_mem_nil, false_imp_iff, implies_true, and_true]
  exact ⟨fun h => refuses_of_popAt (State.requirePrivilege_of_mayRun h) rfl,
    fun h => refuses_of_popAt (State.requirePrivilege_of_mayRun h) rfl,
    fun h => refuses_of_popAt (State.requirePrivilege_of_mayRun h) rfl,
    fun h => refuses_of_popAt (State.requirePrivilege_of_mayRun h) rfl,
    fun h => refuses_of_popAt (State.requirePrivilege_of_mayRun h) rfl,
    fun h => refuses_of_popAt (State.requirePrivilege_of_mayRun h) rfl⟩

theorem deviceStores (s : State) (m n : Reg) (d4 : BitVec 4) (d8 : BitVec 8) :
    StoresRefuse s [(.movBStoreIdx m n, s.x 0 + s.x n, 1), (.movWqStoreIdx m n, s.x 0 + s.x n, s.szWQ),
      (.movLStoreIdx m n, s.x 0 + s.x n, 4), (.movBStore m n, s.x n, 1), (.movWqStore m n, s.x n, s.szWQ),
      (.movLStore m n, s.x n, 4), (.movWStoreR0 n, s.x n, 2), (.movcaL n, s.x n, 4),
      (.movLStoreDisp m n d4, s.x n + BitVec.ofNat s.W (4 * d4.toNat), 4),
      (.movBStoreR0Disp n d4, s.x n + BitVec.ofNat s.W d4.toNat, 1),
      (.movWqStoreR0Disp n d4, s.x n + BitVec.ofNat s.W (s.szWQ * d4.toNat), s.szWQ),
      (.movBStoreGbr d8, s.readSpecial .gbr + BitVec.ofNat s.W d8.toNat, 1),
      (.movWqStoreGbr d8, s.readSpecial .gbr + BitVec.ofNat s.W (s.szWQ * d8.toNat), s.szWQ),
      (.movLStoreGbr d8, s.readSpecial .gbr + BitVec.ofNat s.W (4 * d8.toNat), 4), (.movBPush m n, s.x n - BitVec.ofNat s.W 1, 1),
      (.movWqPush m n, s.x n - BitVec.ofNat s.W s.szWQ, s.szWQ), (.movLPush m n, s.x n - BitVec.ofNat s.W 4, 4),
      (.stsMachPush n, s.x n - BitVec.ofNat s.W s.szLQ, s.szLQ), (.stsMaclPush n, s.x n - BitVec.ofNat s.W s.szLQ, s.szLQ),
      (.stsPrPush n, s.x n - BitVec.ofNat s.W s.szLQ, s.szLQ), (.stcGbrPush n, s.x n - BitVec.ofNat s.W s.szLQ, s.szLQ)] := by
  rw [← State.offset_one s d4, ← State.offset_one s d8, storesRefuse_iff]
  simp only [List.forall_mem_cons]
  exact ⟨refuses_of_storeAt rfl, refuses_of_storeAt rfl, refuses_of_storeAt rfl, refuses_of_storeAt rfl, refuses_of_storeAt rfl,
    refuses_of_storeAt rfl, refuses_of_storeAt rfl, refuses_of_storeAt rfl, refuses_of_storeAt rfl, refuses_of_storeAt rfl,
    refuses_of_storeAt rfl, refuses_of_storeAt rfl, refuses_of_storeAt rfl, refuses_of_storeAt rfl, refuses_of_pushAt rfl,
    refuses_of_pushAt rfl, refuses_of_pushAt rfl, refuses_of_pushAt rfl, refuses_of_pushAt rfl, refuses_of_pushAt rfl,
    refuses_of_pushAt rfl, by simp⟩

theorem devicePushes_privileged (s : State) (n : Reg) (b : BankReg) :
    ∀ i ∈ [Instr.stcSrPush n, .stcVbrPush n, .stcSsrPush n, .stcSpcPush n, .stcDbrPush n, .stcBankPush b n], s.mayRun i = true →
      StoresRefuse s [(i, s.x n - BitVec.ofNat s.W s.szLQ, s.szLQ)] := by
  simp only [storesRefuse_iff, List.forall_mem_cons, List.not_mem_nil, false_imp_iff, implies_true, and_true]
  exact ⟨fun h => refuses_of_pushAt (finish_of_ok (State.requirePrivilege_of_mayRun h)),
    fun h => refuses_of_pushAt (finish_of_ok (State.requirePrivilege_of_mayRun h)),
    fun h => refuses_of_pushAt (finish_of_ok (State.requirePrivilege_of_mayRun h)),
    fun h => refuses_of_pushAt (finish_of_ok (State.requirePrivilege_of_mayRun h)),
    fun h => refuses_of_pushAt (finish_of_ok (State.requirePrivilege_of_mayRun h)),
    fun h => refuses_of_pushAt (finish_of_ok (State.requirePrivilege_of_mayRun h))⟩

theorem deviceLiterals {s : State} {n : Reg} {d8 : BitVec 8} (hslot : s.slot = none) :
    (s.OnDevice (s.literal d8) 4 4 → exec (.movLqLoadPc d8 n) s = .refused .deviceAccess) ∧
    (s.wide = true → s.Reads (s.literal d8) 4 4 → s.OnDevice (s.ea (s.literal d8 + 4)) 4 4 →
      exec (.movLqLoadPc d8 n) s = .refused .deviceAccess) := by
  have hexec : exec (.movLqLoadPc d8 n) s = finish (do
      let v ← s.loadPc (s.pcOperand d8)
      pure (s.setX n v)) := finish_of_ok (State.requireNoSlot_of_none hslot)
  rw [State.pcOperand_eq_literal] at hexec
  have hea := s.ea_literal d8
  refine ⟨fun h => ?_, fun hw h1 h2 => ?_⟩
  · rw [← hea] at h
    exact hexec.trans (finish_of_refuse (State.loadPc_of_error (State.readMem_of_onDevice h)))
  · rw [← hea] at h1
    refine hexec.trans (finish_of_refuse ?_)
    rw [State.loadPc_of_wide hw h1, State.readMem_of_onDevice h2]; rfl

/-! The two reads of a multiply-accumulate. -/

/-- The second register of a multiply-accumulate after the first read. -/
theorem State.x_after_pop (s : State) (m n : Reg) (count : Nat) :
    ((s.setX n (s.x n + BitVec.ofNat s.W count)).x m).setWidth 64 =
      (if m = n then s.x m + BitVec.ofNat s.W count else s.x m).setWidth 64 := by
  refine BitVec.eq_of_toNat_eq ?_
  rw [BitVec.toNat_setWidth, BitVec.toNat_setWidth]
  refine congrArg (· % 2 ^ 64) ?_
  split
  · next h => subst h; exact s.xNat_setX m _
  · next h => exact s.xNat_setX_of_ne _ h

/-- The two reads of a multiply-accumulate, the first of which answers. -/
theorem State.macOperands_of_reads {s : State} {m n : Reg} {count : Nat}
    (h : s.Reads (s.ea ((s.x n).setWidth 64)) count count) :
    s.macOperands m n count = (do
      let (b, s2) ← (s.setX n (s.x n + BitVec.ofNat s.W count)).popAt m count
      pure (((s.valueAt s.localOrder (s.ea ((s.x n).setWidth 64)) count).signExtend s.W).toInt * b.toInt, s2)) := by
  rw [State.macOperands, State.popAt_of_reads h]; rfl

/-- An access by the second register after the first read is one at its address before. -/
theorem State.onDevice_after_pop {s : State} {m n : Reg} {count : Nat}
    (h : s.OnDevice (s.ea ((if m = n then s.x m + BitVec.ofNat s.W count else s.x m).setWidth 64)) count count) :
    (s.setX n (s.x n + BitVec.ofNat s.W count)).OnDevice ((s.setX n (s.x n + BitVec.ofNat s.W count)).ea
      (((s.setX n (s.x n + BitVec.ofNat s.W count)).x m).setWidth 64)) count count := by
  rw [State.x_after_pop]
  exact ⟨h.aligned, h.canonical, h.present, h.device⟩

/-- A multiply-accumulate whose first or second read touches a device. -/
theorem refused_of_mac {i : Instr} {s : State} {m n : Reg} {count : Nat} {r : Refusal} {k : Int × State → Except Abort State}
    (hw : s.wide = false) (hexec : exec i s = finish (do
      demand (!s.wide) r
      s.macOperands m n count >>= k)) :
    (s.OnDevice (s.ea ((s.x n).setWidth 64)) count count → exec i s = .refused .deviceAccess) ∧
    (s.Reads (s.ea ((s.x n).setWidth 64)) count count →
      s.OnDevice (s.ea ((if m = n then s.x m + BitVec.ofNat s.W count else s.x m).setWidth 64)) count count →
      exec i s = .refused .deviceAccess) := by
  have hgo := hexec.trans (finish_of_ok (demand_of (by rw [hw]; rfl)))
  refine ⟨fun h => hgo.trans (finish_of_refuse ?_), fun h1 h2 => hgo.trans (finish_of_refuse ?_)⟩
  · rw [State.macOperands, State.popAt_of_onDevice h]; rfl
  · rw [State.macOperands_of_reads h1, State.popAt_of_onDevice (State.onDevice_after_pop h2)]; rfl

theorem deviceMoves_fpu {s : State} {m n : Reg} {f : FReg} (h : s.FpMoves f) :
    DevicesRefuse s [(.fmovLoad m f, s.x m, s.fpBytes), (.fmovPop m f, s.x m, s.fpBytes),
      (.fmovLoadIdx m f, s.x 0 + s.x m, s.fpBytes)] ∧
    StoresRefuse s [(.fmovStore f n, s.x n, s.fpBytes), (.fmovStoreIdx f n, s.x 0 + s.x n, s.fpBytes),
      (.fmovPush f n, s.x n - BitVec.ofNat s.W s.fpBytes, s.fpBytes)] := by
  simp only [devicesRefuse_iff, storesRefuse_iff, List.forall_mem_cons, List.not_mem_nil, false_imp_iff, implies_true, and_true]
  refine ⟨⟨refuses_of_fpLoad h (s.setWidth_self _) rfl, refuses_of_fpLoad h rfl rfl, refuses_of_fpLoad h (s.setWidth_self _) rfl⟩,
    refuses_of_fpStore h (s.setWidth_self _) rfl fun _ => congrArg finish,
    refuses_of_fpStore h (s.setWidth_self _) rfl fun _ => congrArg finish,
    refuses_of_fpStore (b := s.x n - BitVec.ofNat s.W s.fpTransfer.size) h (by rw [s.size_fpTransfer]) rfl
      fun _ => finish_of_refuse⟩

/-! Instructions that read and store. -/

/-- Read-only memory can be read. -/
theorem State.OnRom.reads {s : State} {e : BitVec 64} {count align : Nat} (h : s.OnRom e count align) : s.Reads e count align :=
  ⟨h.aligned, h.canonical, h.present⟩

theorem romWrite_tasB {s : State} {m : Reg} (h : s.OnRom (s.ea ((s.x m).setWidth 64)) 1 1) :
    exec (.tasB m) s = .refused .romWrite := by
  have hread : exec (.tasB m) s = _ := finish_of_ok (State.readMem_of_reads (o := s.localOrder) h.reads)
  exact hread.trans (finish_of_refuse (State.store_of_onRom h))

theorem romWrite_of_modifyByte {i : Instr} {s : State} {f : Byte → Byte} (hexec : exec i s = modifyByte f s)
    (h : s.OnRom (s.ea ((s.readSpecial .gbr + s.x 0).setWidth 64)) 1 1) : exec i s = .refused .romWrite :=
  hexec.trans ((finish_of_ok (State.readMem_of_reads (o := s.localOrder) h.reads)).trans
    (congrArg finish (State.store_of_onRom (v := f (s.valueAt s.localOrder
      (s.ea ((s.readSpecial .gbr + s.x 0).setWidth 64)) 1)) h)))

theorem casRegisters_fst (s : State) (m n : Reg) :
    (casRegisters s.params.casRoles m n).1 = if s.params.casRoles = .compareRm then m else n := by
  cases s.params.casRoles <;> rfl

theorem romWrite_casL {s : State} {m n : Reg} (h : s.OnRom (s.ea ((s.x 0).setWidth 64)) 4 4)
    (heq : s.xNat (if s.params.casRoles = .compareRm then m else n) % 2 ^ 32 =
      (s.valueAt s.localOrder (s.ea ((s.x 0).setWidth 64)) 4).toNat) : exec (.casL m n) s = .refused .romWrite := by
  rw [← casRegisters_fst] at heq
  exact (exec_casL_of_match rfl h.reads heq).trans (finish_of_refuse (State.store_of_onRom h))

theorem runInstr_of_onDevice {s : State} (h : s.OnDevice s.pc 2 2) : s.runInstr = .refused .deviceAccess := by
  have hfetch : s.fetchWords = .error (.refuse .deviceAccess) := by
    rw [State.fetchWords, State.fetchWord, State.checkAccess_of_onDevice h]; rfl
  simp only [State.runInstr, hfetch]
  rfl

/-- Settles O25. -/
theorem deviceAccesses : Obligations.DeviceAccesses := by
  rintro s m n b d4 d8 q k f rfl rfl
  refine ⟨deviceLoads s m n d4 d8, devicePops_privileged s m b, fun hfd => ?pops, deviceLiterals, fun hw => ?mac,
    deviceStores s m n d4 d8, devicePushes_privileged s n b, fun hfd => ?pushes, romWrite_tasB, fun h => ?bytes, romWrite_casL,
    deviceMoves_fpu, runInstr_of_onDevice⟩
  case pops =>
    have hfpu := State.requireFpu_of_enabled hfd
    simp only [devicesRefuse_iff, List.forall_mem_cons]
    exact ⟨refuses_of_popAt hfpu rfl, refuses_of_popAt hfpu rfl, by simp⟩
  case mac =>
    simp only [List.forall_mem_cons]
    exact ⟨refused_of_mac hw rfl, refused_of_mac hw rfl, by simp⟩
  case pushes =>
    have hfpu := State.requireFpu_of_enabled hfd
    simp only [storesRefuse_iff, List.forall_mem_cons]
    exact ⟨refuses_of_pushAt (finish_of_ok hfpu), refuses_of_pushAt (finish_of_ok hfpu), by simp⟩
  case bytes =>
    simp only [List.forall_mem_cons]
    exact ⟨romWrite_of_modifyByte rfl h, romWrite_of_modifyByte rfl h, romWrite_of_modifyByte rfl h, by simp⟩

end Sys2Proof.Machine
end

section
/-!
PROOFS. Multiply-accumulate.
-/

namespace Sys2Proof.Machine

/-! The two reads. -/

/-- An access by the second register after the first read can be made where it could before. -/
theorem State.reads_after_pop {s : State} {m n : Reg} {count : Nat}
    (h : s.Reads (s.ea ((if m = n then s.x m + BitVec.ofNat s.W count else s.x m).setWidth 64)) count count) :
    (s.setX n (s.x n + BitVec.ofNat s.W count)).Reads ((s.setX n (s.x n + BitVec.ofNat s.W count)).ea
      (((s.setX n (s.x n + BitVec.ofNat s.W count)).x m).setWidth 64)) count count := by
  rw [State.x_after_pop]
  exact ⟨h.aligned, h.canonical, h.present⟩

/-- The state after a post-increment load moved its address register. -/
def State.popped (s : State) (m : Reg) (count : Nat) : State := s.setX m (s.x m + BitVec.ofNat s.W count)

/-- The state after both reads: both registers past their operands. -/
def State.afterMac (s : State) (m n : Reg) (count : Nat) : State := (s.popped n count).popped m count

theorem State.xNat_popped (s : State) (m : Reg) (count : Nat) : (s.popped m count).xNat m = (s.xNat m + count) % 2 ^ s.W := by
  rw [State.popped, State.xNat_setX, BitVec.toNat_add, BitVec.toNat_ofNat, Nat.add_mod_mod]; rfl

theorem State.xNat_popped_of_ne (s : State) {m n : Reg} (h : n ≠ m) (count : Nat) : (s.popped m count).xNat n = s.xNat n :=
  s.xNat_setX_of_ne _ h

theorem State.afterMac_sr (s : State) (m n : Reg) (count : Nat) : (s.afterMac m n count).sr = s.sr := rfl

/-- Both reads answer the product of the two operands. -/
theorem State.macOperands_of_both {s : State} {m n : Reg} {count : Nat} (hc : 8 * count ≤ s.W)
    (h1 : s.Reads (s.ea ((s.x n).setWidth 64)) count count)
    (h2 : s.Reads (s.ea ((if m = n then s.x m + BitVec.ofNat s.W count else s.x m).setWidth 64)) count count) :
    s.macOperands m n count = .ok ((s.valueAt s.localOrder (s.ea ((s.x n).setWidth 64)) count).toInt *
      (s.valueAt s.localOrder (s.ea ((if m = n then s.x m + BitVec.ofNat s.W count else s.x m).setWidth 64)) count).toInt,
      s.afterMac m n count) := by
  rw [State.macOperands_of_reads h1, State.popAt_of_reads (State.reads_after_pop h2), State.x_after_pop,
    BitVec.toInt_signExtend_of_le hc]
  refine congrArg Except.ok (Prod.ext (congrArg
    (fun z : Int => (s.valueAt s.localOrder (s.ea ((s.x n).setWidth 64)) count).toInt * z) ?_) rfl)
  exact BitVec.toInt_signExtend_of_le hc

/-- A second read that misses, the first increment done. -/
theorem State.macOperands_of_misses {s : State} {m n : Reg} {count : Nat}
    (h1 : s.Reads (s.ea ((s.x n).setWidth 64)) count count)
    (h2 : s.Misses (s.ea ((if m = n then s.x m + BitVec.ofNat s.W count else s.x m).setWidth 64)) count count) :
    s.macOperands m n count = .error (.raise (.addressError
      (s.ea ((if m = n then s.x m + BitVec.ofNat s.W count else s.x m).setWidth 64)) .read)
      (s.setX n (s.x n + BitVec.ofNat s.W count))) := by
  have hmiss : (s.setX n (s.x n + BitVec.ofNat s.W count)).popAt m count = _ :=
    State.popAt_of_misses (by rw [State.x_after_pop]; exact h2)
  rw [State.macOperands_of_reads h1, hmiss, State.x_after_pop]
  rfl

theorem State.xNat_afterMac_second (s : State) (m n : Reg) (count : Nat) :
    (s.afterMac m n count).xNat m = (s.xNat m + (if m = n then 2 * count else count)) % 2 ^ s.W := by
  rw [State.afterMac, State.xNat_popped]
  split
  · next h => subst h; rw [State.xNat_popped, State.popped, State.setX_W, Nat.mod_add_mod, Nat.add_assoc, two_mul]
  · next h => rw [State.xNat_popped_of_ne _ h]; rfl

theorem State.xNat_afterMac_first (s : State) (m n : Reg) (count : Nat) :
    (s.afterMac m n count).xNat n = (s.xNat n + (if m = n then 2 * count else count)) % 2 ^ s.W := by
  by_cases h : m = n
  · subst h; exact s.xNat_afterMac_second m m count
  · rw [State.afterMac, State.xNat_popped_of_ne _ (Ne.symm h), State.xNat_popped, if_neg h]

theorem frame_afterMac (s : State) (m n : Reg) (count : Nat) : Frame { regs := [m, n] } s (s.afterMac m n count) :=
  (frame_setX s n _).trans (frame_setX (s.popped n count) m _) (.inl rfl) (h := { regs := [m, n] }) (by simp [and_comm]) (by simp)
    (by simp) (by simp) (by simp) rfl

/-! The accumulator. -/

/-- The accumulator written at 32 bits: bits 63:32 of both registers stay. -/
structure Accumulates (s : State) (r : BitVec 32 × BitVec 32) (t : State) : Prop where
  mach : t.mach = s.mach.extractLsb' 32 32 ++ r.1
  macl : t.macl = s.macl.extractLsb' 32 32 ++ r.2

/-- A multiply-accumulate whose operands can be read. -/
theorem completes_of_mac {i : Instr} {s : State} {m n : Reg} {count : Nat} {r : Refusal} {acc : Int → BitVec 32 × BitVec 32}
    (hw : s.wide = false) (hc : count ≤ 4) (hexec : exec i s = finish (do
      demand (!s.wide) r
      let (p, s1) ← s.macOperands m n count
      pure ((s1.writeSpecial .mach (acc p).1).writeSpecial .macl (acc p).2)))
    (h1 : s.Reads (s.ea ((s.x n).setWidth 64)) count count)
    (h2 : s.Reads (s.ea ((if m = n then s.x m + BitVec.ofNat s.W count else s.x m).setWidth 64)) count count) :
    Completes i s { regs := [m, n], specials := [.mach, .macl] } fun t =>
      t.xNat m = (s.xNat m + (if m = n then 2 * count else count)) % 2 ^ 32 ∧
      t.xNat n = (s.xNat n + (if m = n then 2 * count else count)) % 2 ^ 32 ∧
      Accumulates s (acc ((s.valueAt s.localOrder (s.ea ((s.x n).setWidth 64)) count).toInt *
        (s.valueAt s.localOrder (s.ea ((if m = n then s.x m + BitVec.ofNat s.W count else s.x m).setWidth 64)) count).toInt)) t := by
  have hgo := hexec.trans ((finish_of_ok (demand_of (by rw [hw]; rfl))).trans
    (finish_of_ok (State.macOperands_of_both (s.W_le_of_le hc) h1 h2)))
  have hW := State.W_of_narrow hw
  have hmerge : ∀ (old : BitVec 64) (v : BitVec 32), (s.afterMac m n count).merge old v = old.extractLsb' 32 32 ++ v :=
    fun old v => by
      have hnarrow : (s.afterMac m n count).wide = false := by
        rw [State.wide, State.dq, State.aq, State.afterMac_sr]; exact hw
      rw [State.merge, hnarrow, BitVec.setWidth_eq]; rfl
  refine completes_of_next hgo (((frame_afterMac s m n count).andThen (frame_writeSpecial _ (by decide) _) rfl rfl).andThen
    (frame_writeSpecial _ (by decide) _) rfl rfl) rfl rfl rfl ⟨?_, ?_, hmerge s.mach _, hmerge s.macl _⟩
  · exact (s.xNat_afterMac_second m n count).trans (by rw [hW])
  · exact (s.xNat_afterMac_first m n count).trans (by rw [hW])

/-! The accumulator as a number. -/

theorem toNat_append_halves (a b : BitVec 32) : (a ++ b).toNat = a.toNat * 2 ^ 32 + b.toNat := by
  rw [BitVec.toNat_append, ← Nat.shiftLeft_add_eq_or_of_lt b.isLt, Nat.shiftLeft_eq]

/-- The two halves of a value joined again. -/
theorem toNat_halves_of (r : BitVec 64) : (r.extractLsb' 32 32).toNat * 2 ^ 32 + (r.extractLsb' 0 32).toNat = r.toNat := by
  have h := r.isLt
  rw [BitVec.extractLsb'_toNat, BitVec.extractLsb'_toNat, Nat.shiftRight_eq_div_pow, Nat.shiftRight_zero]
  omega

theorem clamp_eq {lo hi v : Int} (h : lo ≤ hi) : clamp lo hi v = max lo (min hi v) := by
  unfold clamp
  split_ifs <;> omega

/-- What an accumulation leaves, as numbers. -/
theorem Accumulates.toNat {s t : State} {r : BitVec 32 × BitVec 32} (h : Accumulates s r t) :
    t.mach.toNat / 2 ^ 32 = s.mach.toNat / 2 ^ 32 ∧ t.macl.toNat / 2 ^ 32 = s.macl.toNat / 2 ^ 32 ∧
      t.mach.toNat % 2 ^ 32 = r.1.toNat ∧ t.macl.toNat % 2 ^ 32 = r.2.toNat := by
  have hhigh : ∀ v : BitVec 64, (v.extractLsb' 32 32).toNat = v.toNat / 2 ^ 32 := fun v => by
    have := v.isLt
    rw [BitVec.extractLsb'_toNat, Nat.shiftRight_eq_div_pow]; omega
  have h1 := r.1.isLt
  have h2 := r.2.isLt
  rw [h.mach, h.macl, toNat_append_halves, toNat_append_halves, hhigh, hhigh]
  omega

/-- The accumulator of 64 bits before. -/
theorem accumulator_toInt (a b : BitVec 64) : (a.setWidth 32 ++ b.setWidth 32).toInt =
    Int.bmod ((a.toNat % 2 ^ 32 : Nat) * 2 ^ 32 + (b.toNat % 2 ^ 32 : Nat)) (2 ^ 64) := by
  rw [BitVec.toInt_eq_toNat_bmod, toNat_append_halves, BitVec.toNat_setWidth, BitVec.toNat_setWidth]
  push_cast
  rfl

theorem toNat_ofInt_cast (w : Nat) (v : Int) : ((BitVec.ofInt w v).toNat : Int) = v % 2 ^ w := by
  rw [toNat_ofInt_emod, Int.toNat_of_nonneg (Int.emod_nonneg _ (by positivity))]

/-- The halves of a 64-bit accumulator given by an integer. -/
theorem halves_ofInt (v : Int) : (((BitVec.ofInt 64 v).extractLsb' 32 32).toNat : Int) * 2 ^ 32 +
    ((BitVec.ofInt 64 v).extractLsb' 0 32).toNat = v % 2 ^ 64 := by
  rw [← toNat_ofInt_cast, ← toNat_halves_of]
  push_cast
  rfl

theorem Completes.imp {i : Instr} {s : State} {f : Footprint} {P Q : State → Prop} (h : Completes i s f P)
    (hq : ∀ t, P t → Q t) : Completes i s f Q :=
  h.elim fun t ht => ⟨t, ht.1, ht.2.1, ht.2.2.1, hq t ht.2.2.2⟩

/-! The two instructions. -/

/-- The sum with an accumulator read as a signed number. -/
theorem bmod_add_emod (a p : Int) (k : Nat) : (Int.bmod a (2 ^ k) + p) % 2 ^ k = (a + p) % 2 ^ k := by
  have h : Int.bmod a (2 ^ k) % 2 ^ k = a % 2 ^ k := by
    have := Int.bmod_emod (x := a) (m := 2 ^ k)
    push_cast at this
    exact this
  rw [Int.add_emod, h, ← Int.add_emod]

/-- What `MAC.L` adds. -/
def State.longSum (s : State) (p : Int) : BitVec 32 × BitVec 32 :=
  ((accumulateLong s.satur (s.mach.setWidth 32 ++ s.macl.setWidth 32) p).extractLsb' 32 32,
    (accumulateLong s.satur (s.mach.setWidth 32 ++ s.macl.setWidth 32) p).extractLsb' 0 32)

/-- What `MAC.W/Q` adds. -/
def State.wordSum (s : State) (p : Int) : BitVec 32 × BitVec 32 :=
  accumulateWord s.satur (s.mach.setWidth 32) (s.macl.setWidth 32) p

theorem Accumulates.long {s t : State} {p acc : Int}
    (hacc : acc = (s.mach.toNat % 2 ^ 32 : Nat) * 2 ^ 32 + (s.macl.toNat % 2 ^ 32 : Nat)) (h : Accumulates s (s.longSum p) t) :
    (s.satur = false →
      ((t.mach.toNat % 2 ^ 32 : Nat) : Int) * 2 ^ 32 + (t.macl.toNat % 2 ^ 32 : Nat) = (acc + p) % 2 ^ 64) ∧
    (s.satur = true →
      ((t.mach.toNat % 2 ^ 32 : Nat) : Int) * 2 ^ 32 + (t.macl.toNat % 2 ^ 32 : Nat) =
        max (-2 ^ 47) (min (2 ^ 47 - 1) (Int.bmod acc (2 ^ 64) + p)) % 2 ^ 64) := by
  obtain ⟨-, -, hmach, hmacl⟩ := h.toNat
  rw [hmach, hmacl, hacc, ← accumulator_toInt]
  refine ⟨fun hs => ?_, fun hs => ?_⟩
  · simp only [State.longSum, accumulateLong, hs, Bool.false_eq_true, if_false]
    rw [halves_ofInt, accumulator_toInt, bmod_add_emod]
  · simp only [State.longSum, accumulateLong, hs, if_true]
    rw [halves_ofInt, clamp_eq (by norm_num)]

theorem Accumulates.word {s t : State} {p acc : Int}
    (hacc : acc = (s.mach.toNat % 2 ^ 32 : Nat) * 2 ^ 32 + (s.macl.toNat % 2 ^ 32 : Nat)) (h : Accumulates s (s.wordSum p) t) :
    (s.satur = false →
      ((t.mach.toNat % 2 ^ 32 : Nat) : Int) * 2 ^ 32 + (t.macl.toNat % 2 ^ 32 : Nat) = (acc + p) % 2 ^ 64) ∧
    (s.satur = true →
      ((t.macl.toNat % 2 ^ 32 : Nat) : Int) =
        max (-2 ^ 31) (min (2 ^ 31 - 1) (Int.bmod s.macl.toNat (2 ^ 32) + p)) % 2 ^ 32 ∧
      ∀ k < 32, t.mach.getLsbD k = (s.mach.getLsbD k ||
        (k == 0 && (decide (Int.bmod s.macl.toNat (2 ^ 32) + p < -2 ^ 31) ||
          decide (2 ^ 31 - 1 < Int.bmod s.macl.toNat (2 ^ 32) + p))))) := by
  obtain ⟨-, -, hmach, hmacl⟩ := h.toNat
  refine ⟨fun hs => ?_, fun hs => ?_⟩
  · rw [hmach, hmacl, hacc, ← bmod_add_emod, ← accumulator_toInt]
    simp only [State.wordSum, accumulateWord, hs, Bool.false_eq_true, if_false]
    exact halves_ofInt _
  · have hlow : (s.macl.setWidth 32).toInt = Int.bmod s.macl.toNat (2 ^ 32) := BitVec.toInt_setWidth _
    rw [hmacl, h.mach, ← hlow]
    simp only [State.wordSum, accumulateWord, hs, if_true]
    refine ⟨by rw [toNat_ofInt_cast, clamp_eq (by norm_num)], fun k hk => ?_⟩
    have hover : overflows 32 ((s.macl.setWidth 32).toInt + p) = (decide ((s.macl.setWidth 32).toInt + p < -2 ^ 31) ||
      decide (2 ^ 31 - 1 < (s.macl.setWidth 32).toInt + p)) := rfl
    rw [BitVec.getLsbD_append, if_pos hk, ← hover]
    cases overflows 32 ((s.macl.setWidth 32).toInt + p)
    · simp [hk]
    · by_cases h0 : k = 0
      · subst h0; simp
      · simp [hk, h0]

/-- Settles O40. -/
theorem multiplyAccumulate : Obligations.MultiplyAccumulate := by
  rintro s m n count i e1 e2 p acc hw hi rfl rfl rfl hacc h1
  refine ⟨fun h2 => ?reads, fun h2 => ?misses⟩
  case reads =>
    rcases hi with ⟨rfl, rfl⟩ | ⟨rfl, rfl⟩
    · refine (completes_of_mac (acc := s.longSum) hw (by norm_num) rfl h1 h2).imp fun t ⟨hm, hn, ht⟩ => ?_
      obtain ⟨hhigh, hlow, -, -⟩ := ht.toNat
      obtain ⟨hplain, hsatur⟩ := ht.long hacc
      exact ⟨hm, hn, hhigh, hlow, hplain, fun hs _ => hsatur hs, fun _ he => by cases he⟩
    · refine (completes_of_mac (acc := s.wordSum) hw (by norm_num) rfl h1 h2).imp fun t ⟨hm, hn, ht⟩ => ?_
      obtain ⟨hhigh, hlow, -, -⟩ := ht.toNat
      obtain ⟨hplain, hsatur⟩ := ht.word hacc
      exact ⟨hm, hn, hhigh, hlow, hplain, fun _ he => (by cases he), fun hs _ => hsatur hs⟩
  case misses =>
    have hmiss := State.macOperands_of_misses h1 h2
    rcases hi with ⟨rfl, rfl⟩ | ⟨rfl, rfl⟩
    · exact (finish_of_ok (demand_of (by rw [hw]; rfl))).trans (finish_of_raise hmiss)
    · exact (finish_of_ok (demand_of (by rw [hw]; rfl))).trans (finish_of_raise hmiss)

end Sys2Proof.Machine
end

section
/-!
PROOFS. The FPU calculations, the sign and constant instructions.
-/

namespace Sys2Proof.Machine

/-! Results in a calculation mode. -/

theorem State.fv_advance (s : State) (len : BitVec 64) (md : FpMode) (i : FReg) : (s.advance len).fv md i = s.fv md i := by
  cases md <;> rfl

/-- Placing a result leaves what an advance looks at. -/
theorem State.fvSet_next (s : State) (md : FpMode) (i : FReg) (v : BitVec md.format.width) :
    (s.fvSet md i v).pc = s.pc ∧ (s.fvSet md i v).slot = s.slot ∧ (s.fvSet md i v).aq = s.aq := by
  cases md <;> exact ⟨rfl, rfl, rfl⟩

/-- An instruction that places a result in a calculation mode. -/
theorem completes_of_fvSet {i : Instr} {s : State} {md : FpMode} {n : FReg} {v : BitVec md.format.width} (hn : md.takes n)
    (h : exec i s = .next ((s.fvSet md n v).advance 2)) : Completes i s { fregs := s.fpRegs md n } fun t => t.fv md n = v := by
  obtain ⟨hpc, hslot, haq⟩ := s.fvSet_next md n v
  exact completes_of_next h (frame_fvSet s md n v) hpc hslot haq ((State.fv_advance _ 2 md n).trans (s.fv_fvSet md n v hn))

/-- A calculation of two operands, past its checks. -/
theorem exec_operands {i : Instr} {s : State} {md : FpMode} {m n : FReg} {k : FpMode → Except Abort State} (h : s.FpuReady md)
    (hm : md.takes m) (hn : md.takes n) (hexec : exec i s = finish (do
      s.requireFpuGroup
      let md ← s.requireFpMode
      requireOperand md m
      requireOperand md n
      k md)) : exec i s = finish (k md) :=
  (exec_in_mode h hexec).trans ((finish_of_ok (requireOperand_of_takes hm)).trans (finish_of_ok (requireOperand_of_takes hn)))

/-- A calculation of one operand, past its checks. -/
theorem exec_operand {i : Instr} {s : State} {md : FpMode} {n : FReg} {k : FpMode → Except Abort State} (h : s.FpuReady md)
    (hn : md.takes n) (hexec : exec i s = finish (do
      s.requireFpuGroup
      let md ← s.requireFpMode
      requireOperand md n
      k md)) : exec i s = finish (k md) :=
  (exec_in_mode h hexec).trans (finish_of_ok (requireOperand_of_takes hn))

theorem completes_fpArith {i : Instr} {s : State} {md : FpMode} {m n : FReg}
    {op : (f : FpFormat) → BitVec 2 → Bool → BitVec f.width → BitVec f.width → BitVec f.width} (h : s.FpuReady md)
    (hm : md.takes m) (hn : md.takes n) (hexec : exec i s = fpArith op m n s) :
    Completes i s { fregs := s.fpRegs md n } fun t => t.fv md n = op md.format s.rm s.dn (s.fv md n) (s.fv md m) :=
  completes_of_fvSet hn (exec_operands h hm hn hexec)

theorem setsT_fpCompare {i : Instr} {s : State} {md : FpMode} {m n : FReg}
    {op : (f : FpFormat) → Bool → BitVec f.width → BitVec f.width → Bool} (h : s.FpuReady md)
    (hm : md.takes m) (hn : md.takes n) (hexec : exec i s = fpCompare op m n s) :
    SetsT i s (op md.format s.dn (s.fv md n) (s.fv md m) = true) :=
  setsT_of_putT (exec_operands h hm hn hexec) Iff.rfl

/-! Integers. -/

/-- The integer that `FLOAT` converts. -/
def State.fpulInteger (s : State) : Int :=
  match s.fpulInt with
  | .w32 => (s.fpul.setWidth 32).toInt
  | .w64 => s.fpul.toInt

theorem State.fpulInteger_eq {s : State} {k : Int} (h32 : s.fpulInt = .w32 → k = Int.bmod s.fpul.toNat (2 ^ 32))
    (h64 : s.fpulInt = .w64 → k = s.fpul.toInt) : s.fpulInteger = k := by
  rw [State.fpulInteger]
  cases h : s.fpulInt
  · exact (BitVec.toInt_setWidth _).trans (h32 h).symm
  · exact (h64 h).symm

/-- An instruction that writes the low bits of `FPUL`. -/
theorem completes_of_putFpulLow {i : Instr} {s : State} {o : OpenWidth} {v : BitVec 64} {Q : BitVec 64 → Prop}
    (h : exec i s = .next ((s.putFpulLow o v).advance 2))
    (hq : Q (s.putFpulLow o v).fpul) : Completes i s { specials := [.fpul] } fun t => Q t.fpul :=
  completes_of_next h (frame_putFpulLow s o v) rfl rfl rfl hq

/-- The bits of `FPUL` after a write of its low bits. -/
theorem State.getLsbD_fpul_putFpulLow (s : State) (o : OpenWidth) (v : BitVec 64) {k : Nat} (hk : k < 64) :
    (s.putFpulLow o v).fpul.getLsbD k = if o = .w32 ∧ 32 ≤ k then s.fpul.getLsbD k else v.getLsbD k := by
  cases o
  · change (s.fpul.extractLsb' 32 32 ++ v.setWidth 32).getLsbD k = _
    by_cases h : k < 32
    · rw [if_neg (by omega), BitVec.getLsbD_append, if_pos h, BitVec.getLsbD_setWidth, decide_eq_true h, Bool.true_and]
    · rw [if_pos ⟨rfl, by omega⟩, BitVec.getLsbD_append, if_neg h, BitVec.getLsbD_extractLsb', decide_eq_true (by omega),
        Bool.true_and, show 32 + (k - 32) = k by omega]
  · exact (if_neg (by rintro ⟨h, -⟩; cases h)).symm

theorem completes_ftrc {s : State} {md : FpMode} {m : FReg} (h : s.FpuReady md) (hm : md.takes m) :
    Completes (.ftrc m) s { specials := [.fpul] } fun t => ∀ k < 64, t.fpul.getLsbD k =
      if s.fpulInt = .w32 ∧ 32 ≤ k then s.fpul.getLsbD k
      else (BitVec.ofInt 64 (s.fpTrc md.format s.fpulInt.bits (s.fv md m))).getLsbD k :=
  completes_of_putFpulLow (Q := fun x => ∀ k < 64, x.getLsbD k = if s.fpulInt = .w32 ∧ 32 ≤ k then s.fpul.getLsbD k
    else (BitVec.ofInt 64 (s.fpTrc md.format s.fpulInt.bits (s.fv md m))).getLsbD k)
    ((exec_operand h hm rfl).trans rfl) fun _ hk => s.getLsbD_fpul_putFpulLow _ _ hk

/-! Conversions between the formats. -/

/-- `FCNVDS` replaces the low half of `FPUL`. -/
theorem completes_low32 {i : Instr} {s : State} {v : BitVec 32}
    (h : exec i s = .next ((s.putFpulLow .w32 (v.setWidth 64)).advance 2)) :
    Completes i s { specials := [.fpul] } fun t => t.fpul = s.fpul.extractLsb' 32 32 ++ v := by
  refine completes_of_putFpulLow (Q := fun x => x = s.fpul.extractLsb' 32 32 ++ v) h ?_
  exact congrArg (s.fpul.extractLsb' 32 32 ++ ·) ((BitVec.setWidth_setWidth_of_le v (by norm_num)).trans (BitVec.setWidth_eq v))

theorem conversions {s : State} {md : FpMode} {m n : FReg} (h : s.FpuReady md) (hm : md.takes m) (hn : md.takes n)
    (hmd : md = .split ∨ md = .double) :
    ∃ (widen : BitVec 32 → BitVec md.format.width) (narrow : BitVec md.format.width → BitVec 32),
      (∀ a, (widen a).toNat = (s.fpCnvsd s.dn a).toNat) ∧ (∀ a, narrow a = s.fpCnvds s.rm s.dn (a.setWidth 64)) ∧
      Completes (.fcnvsd n) s { fregs := s.fpRegs md n } (fun t => t.fv md n = widen (s.fpul.setWidth 32)) ∧
      Completes (.fcnvds m) s { specials := [.fpul] } (fun t =>
        t.fpul = s.fpul.extractLsb' 32 32 ++ narrow (s.fv md m)) := by
  have hsame : ∀ a : BitVec 64, s.fpCnvds s.rm s.dn a = s.fpCnvds s.rm s.dn (a.setWidth 64) := fun a => by rw [BitVec.setWidth_eq]
  rcases hmd with rfl | rfl
  · exact ⟨s.fpCnvsd s.dn, s.fpCnvds s.rm s.dn, fun _ => rfl, hsame, completes_of_fvSet hn ((exec_operand h hn rfl).trans rfl),
      completes_low32 ((exec_operand h hm rfl).trans rfl)⟩
  · exact ⟨s.fpCnvsd s.dn, s.fpCnvds s.rm s.dn, fun _ => rfl, hsame, completes_of_fvSet hn ((exec_operand h hn rfl).trans rfl),
      completes_low32 ((exec_operand h hm rfl).trans rfl)⟩

/-- Settles O56. -/
theorem fpuCalculations : Obligations.FpuCalculations := by
  intro s md m n h hm hn
  refine ⟨?arith, setsT_fpCompare h hm hn rfl, setsT_fpCompare h hm hn rfl, completes_of_fvSet hn ((exec_operand h hn rfl).trans rfl),
    fun hsplit => ?fmac, fun k h32 h64 => ?float, completes_ftrc h hm, conversions h hm hn⟩
  case arith =>
    simp only [List.forall_mem_cons]
    exact ⟨completes_fpArith h hm hn rfl, completes_fpArith h hm hn rfl, completes_fpArith h hm hn rfl,
      completes_fpArith h hm hn rfl, by simp⟩
  case fmac =>
    exact completes_of_fvSet hn ((exec_in_mode h rfl).trans (finish_of_ok (demand_of (by cases md <;> simp at hsplit ⊢))))
  case float =>
    rw [← State.fpulInteger_eq h32 h64]
    exact completes_of_fvSet hn ((exec_operand h hn rfl).trans rfl)

end Sys2Proof.Machine
end

section
/-!
PROOFS. The FPU instructions that replace a sign or write a constant.
-/

namespace Sys2Proof.Machine

/-- A word with its top bit replaced. -/
theorem getLsbD_cons_setWidth {w : Nat} (v : BitVec (w + 1)) (g : Bool → Bool) (k : Nat) :
    (BitVec.cons (g v.msb) (v.setWidth w)).getLsbD k = if k = w then g (v.getLsbD k) else v.getLsbD k := by
  rw [BitVec.getLsbD_cons]
  by_cases h : k = w
  · rw [if_pos h, if_pos h, BitVec.msb_eq_getLsbD_last, h, Nat.add_sub_cancel]
  · rw [if_neg h, if_neg h, BitVec.getLsbD_setWidth]
    by_cases hk : k < w
    · rw [decide_eq_true hk, Bool.true_and]
    · rw [decide_eq_false hk, Bool.false_and, BitVec.getLsbD_of_ge _ _ (by omega)]

/-- Two words side by side, the top bit of the upper one replaced. -/
theorem getLsbD_append_cons (a b : BitVec 32) (g : Bool → Bool) (k : Nat) :
    ((BitVec.cons (g a.msb) (a.setWidth 31) : BitVec 32) ++ b).getLsbD k =
      if k + 1 = 64 then g ((a ++ b).getLsbD k) else (a ++ b).getLsbD k := by
  rw [BitVec.getLsbD_append, BitVec.getLsbD_append]
  by_cases h : k < 32
  · rw [if_pos h, if_pos h, if_neg (by omega)]
  · rw [if_neg h, if_neg h, getLsbD_cons_setWidth a]
    exact if_congr (by omega) rfl rfl

theorem State.mapSign_next (s : State) (g : Bool → Bool) (md : FpMode) (n : FReg) :
    (s.mapSign g md n).pc = s.pc ∧ (s.mapSign g md n).slot = s.slot ∧ (s.mapSign g md n).aq = s.aq := by
  cases md <;> exact ⟨rfl, rfl, rfl⟩

theorem frame_mapSign (s : State) (g : Bool → Bool) (md : FpMode) (n : FReg) :
    Frame { fregs := s.fpRegs md n } s (s.mapSign g md n) := by
  cases md with
  | single => exact frame_putFreg s n _
  | double => exact frame_putFreg s n _
  | split => exact (frame_putFreg s (s.highOf n) _).mono (by simp) (by simp) (by simp) (by simp) (by simp [State.fpRegs]) (by simp)

theorem State.getLsbD_fv_mapSign (s : State) (g : Bool → Bool) {md : FpMode} {n : FReg} (hn : md.takes n) (k : Nat) :
    ((s.mapSign g md n).fv md n).getLsbD k =
      if k + 1 = md.format.width then g ((s.fv md n).getLsbD k) else (s.fv md n).getLsbD k := by
  cases md with
  | single =>
    rw [State.mapSign, State.fv, State.f32, State.freg_putF32, if_pos rfl]
    exact (getLsbD_cons_setWidth (w := 31) (s.f32 n) g k).trans (if_congr (by simp [FpFormat.width]) rfl rfl)
  | double =>
    rw [State.mapSign, State.fv, State.f64, State.freg_putFreg, if_pos rfl]
    exact getLsbD_append_cons _ _ g k
  | split =>
    have hhigh : (s.mapSign g .split n).f32 (s.highOf n) = BitVec.cons (g (s.f32 (s.highOf n)).msb) ((s.f32 (s.highOf n)).setWidth 31) := by
      rw [State.mapSign, State.f32, State.freg_putF32, if_pos rfl]
    have hlow : (s.mapSign g .split n).f32 (s.lowOf n) = s.f32 (s.lowOf n) := by
      rw [State.mapSign, State.f32, State.freg_putF32, if_neg (s.highOf_ne_lowOf n (hn rfl)).symm, State.f32]
    change ((s.mapSign g .split n).f32 (s.highOf n) ++ (s.mapSign g .split n).f32 (s.lowOf n)).getLsbD k = _
    rw [hhigh, hlow]
    exact getLsbD_append_cons _ _ g k

/-- Bits 31:0 of an FPU register replaced: bits 63:32 stay, of every register. -/
theorem State.freg_hi_putF32 (s : State) (n : FReg) (v : BitVec 32) (i : FReg) : ((s.putF32 n v).freg i).hi = (s.freg i).hi := by
  rw [State.freg_putF32]
  split
  · next h => rw [h]
  · rfl

theorem State.freg_hi_mapSign (s : State) (g : Bool → Bool) {md : FpMode} (n : FReg) (hmd : md ≠ .double) (i : FReg) :
    ((s.mapSign g md n).freg i).hi = (s.freg i).hi := by
  cases md with
  | single => exact s.freg_hi_putF32 n _ i
  | split => exact s.freg_hi_putF32 (s.highOf n) _ i
  | double => exact absurd rfl hmd

/-- An instruction that replaces a sign. -/
theorem completes_fpSign {i : Instr} {s : State} {md : FpMode} {n : FReg} {g : Bool → Bool} (h : s.FpuReady md) (hn : md.takes n)
    (hexec : exec i s = fpSign g n s) :
    Completes i s { fregs := s.fpRegs md n } fun t =>
      (∀ k < md.format.width, (t.fv md n).getLsbD k =
        if k + 1 = md.format.width then g ((s.fv md n).getLsbD k) else (s.fv md n).getLsbD k) ∧
      (md ≠ .double → ∀ i, (t.freg i).hi = (s.freg i).hi) := by
  obtain ⟨hpc, hslot, haq⟩ := s.mapSign_next g md n
  refine completes_of_next (exec_operand h hn hexec) (frame_mapSign s g md n) hpc hslot haq ⟨fun k _ => ?_, s.freg_hi_mapSign g n⟩
  rw [State.fv_advance]
  exact s.getLsbD_fv_mapSign g hn k

/-- A constant in single precision. -/
theorem completes_of_putF32 {i : Instr} {s : State} {n : FReg} {v : BitVec 32} (h : exec i s = .next ((s.putF32 n v).advance 2)) :
    Completes i s { fregs := [n] } fun t => t.f32 n = v ∧ (t.freg n).hi = (s.freg n).hi :=
  completes_of_next h (frame_putFreg s n _) rfl rfl rfl
    ⟨congrArg Reg64.lo ((s.freg_putF32 n n v).trans (if_pos rfl)), s.freg_hi_putF32 n v n⟩

theorem completes_of_setF64 {i : Instr} {s : State} {n : FReg} {v : BitVec 64} (h : exec i s = .next ((s.setF64 n v).advance 2)) :
    Completes i s { fregs := [n] } fun t => t.f64 n = v :=
  completes_of_next h (frame_putFreg s n _) rfl rfl rfl (s.fv_fvSet .double n v (by simp [FpMode.takes]))

/-- Settles O58. -/
theorem fpuSignsAndConstants : Obligations.FpuSignsAndConstants := by
  intro s md n h hn
  refine ⟨completes_fpSign h hn rfl, completes_fpSign (g := fun _ => false) h hn rfl, ?single, ?double⟩
  case single =>
    rintro rfl
    exact ⟨completes_of_putF32 ((exec_in_mode h rfl).trans rfl), completes_of_putF32 ((exec_in_mode h rfl).trans rfl)⟩
  case double =>
    rintro rfl
    exact ⟨completes_of_setF64 ((exec_in_mode h rfl).trans rfl), completes_of_setF64 ((exec_in_mode h rfl).trans rfl)⟩

end Sys2Proof.Machine
end

section
/-!
PROOFS. The moves between FPU registers and `FPUL`.
-/

namespace Sys2Proof.Machine

/-! Two registers written one after the other. -/

/-- Bits 31:0 of two FPU registers replaced. -/
def State.putPair (s : State) (i j : FReg) (v w : BitVec 32) : State := (s.putF32 i v).putF32 j w

theorem State.freg_hi_putPair (s : State) (i j : FReg) (v w : BitVec 32) (l : FReg) :
    ((s.putPair i j v w).freg l).hi = (s.freg l).hi := ((s.putF32 i v).freg_hi_putF32 j w l).trans (s.freg_hi_putF32 i v l)

theorem State.f32_putPair_first (s : State) {i j : FReg} (v w : BitVec 32) (h : i ≠ j) : (s.putPair i j v w).f32 i = v := by
  rw [State.putPair, State.f32, State.freg_putF32, if_neg h, State.freg_putF32, if_pos rfl]

theorem State.f32_putPair_second (s : State) (i j : FReg) (v w : BitVec 32) : (s.putPair i j v w).f32 j = w := by
  rw [State.putPair, State.f32, State.freg_putF32, if_pos rfl]

theorem frame_putPair (s : State) (i j : FReg) (v w : BitVec 32) : Frame { fregs := [i, j] } s (s.putPair i j v w) :=
  (frame_putFreg s i _).andThen (frame_putFreg _ j _) rfl rfl

/-- The other register of a pair is the one after an even register. -/
theorem pairPartner_of_even : ∀ i : FReg, i.getLsbD 0 = false → pairPartner i = i + 1 := by decide

theorem ne_succ_freg : ∀ i : FReg, i ≠ i + 1 := by decide

/-! `FMOV` between registers. -/

/-- `FMOV`, past the check of the group. -/
theorem exec_fmov {s : State} (m n : FReg) (hfd : s.fd = false) (hbank : s.fpBank = false) :
    exec (.fmov m n) s = finish (if s.aq then pure (s.putFreg n (s.freg m))
      else if s.fpSize then do
        demand (!m.getLsbD 0 && !n.getLsbD 0) .fpuOddPair
        pure (s.putPair n (pairPartner n) (s.f32 m) (s.f32 (pairPartner m)))
      else pure (s.putF32 n (s.f32 m))) :=
  finish_of_ok (State.requireFpuGroup_of_ready hfd hbank)

theorem completes_fmov_whole {s : State} (m n : FReg) (hfd : s.fd = false) (hbank : s.fpBank = false) (haq : s.aq = true) :
    Completes (.fmov m n) s { fregs := [n] } fun t => t.freg n = s.freg m := by
  have hexec := exec_fmov m n hfd hbank
  rw [if_pos haq] at hexec
  exact completes_of_next hexec (frame_putFreg s n _) rfl rfl rfl ((s.freg_putFreg n n _).trans (if_pos rfl))

theorem completes_fmov_half {s : State} (m n : FReg) (hfd : s.fd = false) (hbank : s.fpBank = false) (haq : s.aq = false)
    (hsize : s.fpSize = false) : Completes (.fmov m n) s { fregs := [n] } fun t =>
      t.f32 n = s.f32 m ∧ (t.freg n).hi = (s.freg n).hi := by
  have hexec := exec_fmov m n hfd hbank
  rw [if_neg (by simp [haq]), if_neg (by simp [hsize])] at hexec
  exact completes_of_putF32 hexec

theorem completes_fmov_pair {s : State} {m n : FReg} (hfd : s.fd = false) (hbank : s.fpBank = false) (haq : s.aq = false)
    (hsize : s.fpSize = true) (hm : m.getLsbD 0 = false) (hn : n.getLsbD 0 = false) :
    Completes (.fmov m n) s { fregs := [n, n + 1] } fun t => t.f32 n = s.f32 m ∧ t.f32 (n + 1) = s.f32 (m + 1) ∧
      ∀ i, (t.freg i).hi = (s.freg i).hi := by
  have hexec := exec_fmov m n hfd hbank
  rw [if_neg (by simp [haq]), if_pos hsize, pairPartner_of_even m hm, pairPartner_of_even n hn] at hexec
  exact completes_of_next (hexec.trans (finish_of_ok (demand_of (by rw [hm, hn]; rfl)))) (frame_putPair s n (n + 1) _ _) rfl rfl rfl
    ⟨s.f32_putPair_first _ _ (ne_succ_freg n), s.f32_putPair_second _ _ _ _, s.freg_hi_putPair _ _ _ _⟩

/-! `FSTS` and `FLDS`. -/

theorem State.f32_setF64 (s : State) (n : FReg) (v : BitVec 64) : (s.setF64 n v).f32 n = v.setWidth 32 := by
  rw [State.f32, State.freg_setF64, if_pos rfl]
  exact BitVec.eq_of_getLsbD_eq fun k _ => by simp [Reg64.ofBits]

theorem completes_fsts {s : State} (n : FReg) (hfd : s.fd = false) (hbank : s.fpBank = false) :
    Completes (.fsts n) s { fregs := [n] } fun t =>
      t.f32 n = s.fpul.setWidth 32 ∧ (s.aq = false → (t.freg n).hi = (s.freg n).hi) ∧
      (s.aq = true → s.params.fpulMoveBits = .w64 → t.f64 n = s.fpul) := by
  have hexec : exec (.fsts n) s = finish _ := finish_of_ok (State.requireFpuGroup_of_ready hfd hbank)
  cases haq : s.aq
  · rw [if_neg (by simp [haq])] at hexec
    exact (completes_of_putF32 hexec).imp fun t ⟨hlo, hhi⟩ => ⟨hlo, fun _ => hhi, by simp⟩
  · rw [if_pos haq] at hexec
    cases hbits : s.params.fpulMoveBits
    · rw [hbits] at hexec
      exact completes_of_next hexec (frame_setF32 s n _) rfl rfl rfl
        ⟨congrArg Reg64.lo ((s.freg_setF32 n n _).trans (if_pos rfl)), by simp, by simp⟩
    · rw [hbits] at hexec
      exact completes_of_next hexec (frame_putFreg s n _) rfl rfl rfl
        ⟨s.f32_setF64 n s.fpul, by simp, fun _ _ => s.fv_fvSet .double n s.fpul (by simp [FpMode.takes])⟩

theorem completes_flds {s : State} (m : FReg) (hfd : s.fd = false) (hbank : s.fpBank = false) :
    Completes (.flds m) s { specials := [.fpul] } fun t =>
      t.fpul = if s.aq = true ∧ s.params.fpulMoveBits = .w64 then s.f64 m else s.fpul.extractLsb' 32 32 ++ s.f32 m := by
  have hexec : exec (.flds m) s = finish _ := finish_of_ok (State.requireFpuGroup_of_ready hfd hbank)
  by_cases h : s.aq = true ∧ s.params.fpulMoveBits = .w64
  · rw [show s.fpulMove = .w64 by rw [State.fpulMove, if_pos h.1, h.2]] at hexec
    simp only [if_pos h]
    exact completes_of_putFpulLow (o := .w64) (Q := fun x => x = s.f64 m) hexec rfl
  · have hmove : s.fpulMove = .w32 := by
      rw [State.fpulMove]
      split
      · next haq => cases hbits : s.params.fpulMoveBits
                    · rfl
                    · exact absurd ⟨haq, hbits⟩ h
      · rfl
    rw [hmove] at hexec
    simp only [if_neg h]
    exact completes_low32 hexec

/-! `FSCHG`. -/

theorem frame_putFpSize (s : State) (b : Bool) : Frame { specials := [.fpscr] } s (s.putFpSize b) where
  regs _ _ := rfl
  others _ _ := rfl
  specials r _ hr := by
    cases r with
    | fpscr => exact absurd (List.mem_singleton.2 rfl) hr
    | _ => rfl
  base _ := rfl
  status _ _ := rfl
  fregs _ _ := rfl
  memory _ _ := rfl
  tags := rfl
  asleep := rfl
  irqInput := rfl
  params := rfl

theorem completes_fschg {s : State} (hfd : s.fd = false) (hbank : s.fpBank = false) :
    Completes .fschg s { specials := [.fpscr] } fun t =>
      ∀ k, t.fpscr.getLsbD k = if k = 20 then !s.fpscr.getLsbD 20 else s.fpscr.getLsbD k :=
  completes_of_next (finish_of_ok (State.requireFpuGroup_of_ready hfd hbank)) (frame_putFpSize s (!s.fpSize)) rfl rfl rfl
    fun k => (getLsbD_putBit s.fpscr 20 _ k).trans (if_congr (by simp) rfl rfl)

/-- Settles O59. -/
theorem fpuMoves : Obligations.FpuMoves := fun _ m n hfd hbank =>
  ⟨completes_fmov_whole m n hfd hbank, completes_fmov_half m n hfd hbank, completes_fmov_pair hfd hbank, completes_fsts n hfd hbank,
    completes_flds m hfd hbank, completes_fschg hfd hbank⟩

end Sys2Proof.Machine
end

section
/-!
PROOFS. `FMOV.S` to and from memory.
-/

namespace Sys2Proof.Machine

/-! The cases of a transfer. -/

/-- The three cases in which `FMOV.S` has a meaning (48 R458). -/
theorem State.FpMoves.cases {s : State} {f : FReg} (h : s.FpMoves f) :
    (s.fpSize = false ∧ s.aq = false) ∨ (s.fpSize = true ∧ s.aq = false ∧ f.getLsbD 0 = false) ∨
      (s.fpSize = true ∧ s.aq = true) := by
  cases hsize : s.fpSize
  · refine .inl ⟨rfl, ?_⟩
    cases haq : s.aq
    · rfl
    · exact absurd (h.size haq) (by simp [hsize])
  · cases haq : s.aq
    · exact .inr (.inl ⟨rfl, rfl, h.pair haq hsize⟩)
    · exact .inr (.inr ⟨rfl, rfl⟩)

theorem State.fpTransfer_of_single {s : State} (hsize : s.fpSize = false) : s.fpTransfer = .single := by
  rw [State.fpTransfer, if_neg (by simp [hsize])]

theorem State.fpTransfer_of_pair {s : State} (hsize : s.fpSize = true) (haq : s.aq = false) : s.fpTransfer = .pair := by
  rw [State.fpTransfer, if_pos hsize, if_neg (by simp [haq])]

theorem State.fpTransfer_of_double {s : State} (hsize : s.fpSize = true) (haq : s.aq = true) : s.fpTransfer = .double := by
  rw [State.fpTransfer, if_pos hsize, if_pos haq]

/-- The two registers of a pair are different. -/
theorem pairRegisters_ne (o : PairOrder) {i : FReg} (h : i.getLsbD 0 = false) : (pairRegisters o i).1 ≠ (pairRegisters o i).2 := by
  cases o
  · rw [pairRegisters, pairPartner_of_even i h]
    exact ne_succ_freg i
  · rw [pairRegisters, pairPartner_of_even i h]
    exact (ne_succ_freg i).symm

/-! Loads. -/

/-- The register image that stands at a normalised address (48 R458). -/
def State.fpImage (s : State) (e : BitVec 64) : FpTransfer → BitVec 64
  | .single => (s.valueAt s.localOrder e 4).setWidth 64
  | .pair => (s.valueAt s.localOrder e 4).setWidth 32 ++ (s.valueAt s.localOrder (e + 4) 4).setWidth 32
  | .double => (s.valueAt s.localOrder e 8).setWidth 64

theorem State.fpLoad_of_reads {s : State} {t : FpTransfer} {w : Nat} {a : BitVec w}
    (h : s.Reads (s.ea (a.setWidth 64)) t.size t.size) : s.fpLoad t a = .ok (s.fpImage (s.ea (a.setWidth 64)) t) := by
  cases t with
  | single => rw [State.fpLoad, State.readMem_of_reads (count := 4) h]; rfl
  | pair => rw [State.fpLoad, show s.checkAccess .read _ 8 8 = _ from State.checkAccess_of_reads (by decide) h]; rfl
  | double => rw [State.fpLoad, State.readMem_of_reads (count := 8) h]; rfl

/-- Placing a register image touches the registers of the field only. -/
theorem frame_fpPlace (s : State) (f : FReg) (v : BitVec 64) : Frame { fregs := s.fpMoved f } s (s.fpPlace s.fpTransfer f v) := by
  by_cases hpair : s.aq = false ∧ s.fpSize = true
  · rw [State.fpMoved, if_pos hpair, State.fpTransfer_of_pair hpair.2 hpair.1]
    exact frame_putPair s _ _ _ _
  · rw [State.fpMoved, if_neg hpair]
    cases ht : s.fpTransfer with
    | single => exact frame_putFreg s f _
    | double => exact frame_putFreg s f _
    | pair =>
      rw [State.fpTransfer] at ht
      split at ht
      · next hsize =>
        split at ht
        · cases ht
        · next haq => exact absurd ⟨Bool.eq_false_iff.2 haq, hsize⟩ hpair
      · cases ht

theorem State.fpPlace_next (s : State) (t : FpTransfer) (f : FReg) (v : BitVec 64) :
    (s.fpPlace t f v).pc = s.pc ∧ (s.fpPlace t f v).slot = s.slot ∧ (s.fpPlace t f v).aq = s.aq := by
  cases t <;> exact ⟨rfl, rfl, rfl⟩

/-- What the register image at an address leaves in the registers of a field, also past a change of a general register. -/
theorem State.fpLoaded_fpPlace {s u : State} {e : BitVec 64} {f : FReg} (h : s.FpMoves f) (hfr : u.fr = s.fr)
    (hparams : u.params = s.params) : s.FpLoaded e f (u.fpPlace s.fpTransfer f (s.fpImage e s.fpTransfer)) := by
  have hfreg : ∀ i, u.freg i = s.freg i := fun i => by rw [State.freg, State.freg, hfr]
  rcases h.cases with ⟨hsize, haq⟩ | ⟨hsize, haq, heven⟩ | ⟨hsize, haq⟩
  · rw [State.fpTransfer_of_single hsize]
    refine ⟨fun _ => ?_, by simp [hsize], by simp [haq]⟩
    have hput := (u.freg_putF32 f f ((s.fpImage e .single).setWidth 32)).trans (if_pos rfl)
    rw [State.fpPlace, hput, hfreg]
    exact ⟨by simp [State.fpImage], rfl⟩
  · rw [State.fpTransfer_of_pair hsize haq]
    refine ⟨by simp [hsize], fun _ _ => ?_, by simp [haq]⟩
    have hne := pairRegisters_ne s.params.pairLow heven
    have hplace : u.fpPlace .pair f (s.fpImage e .pair) = u.putPair (pairRegisters s.params.pairLow f).1
        (pairRegisters s.params.pairLow f).2 ((s.valueAt s.localOrder e 4).setWidth 32)
        ((s.valueAt s.localOrder (e + 4) 4).setWidth 32) := by
      rw [State.fpPlace, State.putPair, hparams, State.fpImage, BitVec.extractLsb'_append_eq_left, BitVec.extractLsb'_append_eq_right]
    rw [hplace]
    exact ⟨congrArg BitVec.toNat (u.f32_putPair_first _ _ hne), congrArg BitVec.toNat (u.f32_putPair_second _ _ _ _),
      fun i => (u.freg_hi_putPair _ _ _ _ i).trans (by rw [hfreg])⟩
  · rw [State.fpTransfer_of_double hsize haq]
    refine ⟨by simp [hsize], by simp [haq], fun _ => ?_⟩
    exact congrArg BitVec.toNat (u.fv_fvSet .double f _ (by simp [FpMode.takes]))

/-! Stores. -/

/-- The state after an FPU register or pair is stored at a normalised address (48 R458). -/
def State.fpPut (s : State) (e : BitVec 64) (f : FReg) : FpTransfer → State
  | .single => s.putBytes s.localOrder e 4 (s.f32 f).toNat
  | .pair => (s.putBytes s.localOrder e 4 (s.f32 (pairRegisters s.params.pairLow f).1).toNat).putBytes s.localOrder (e + 4) 4
      (s.f32 (pairRegisters s.params.pairLow f).2).toNat
  | .double => s.putBytes s.localOrder e 8 (s.f64 f).toNat

theorem State.fpStore_of_writes {s : State} {t : FpTransfer} {w : Nat} {a : BitVec w} {f : FReg}
    (h : s.Writes (s.ea (a.setWidth 64)) t.size t.size) : s.fpStore t a f = .ok (s.fpPut (s.ea (a.setWidth 64)) f t) := by
  cases t with
  | single => exact State.store_of_writes h
  | pair => rw [State.fpStore, show s.checkAccess .write _ 8 8 = _ from State.checkAccess_of_writes h]; rfl
  | double => exact State.store_of_writes h

theorem State.fpPut_next (s : State) (t : FpTransfer) (e : BitVec 64) (f : FReg) :
    (s.fpPut e f t).pc = s.pc ∧ (s.fpPut e f t).slot = s.slot ∧ (s.fpPut e f t).sr = s.sr ∧
      (s.fpPut e f t).params = s.params := by
  cases t <;> exact ⟨rfl, rfl, rfl, rfl⟩

theorem State.fpPut_W (s : State) (t : FpTransfer) (e : BitVec 64) (f : FReg) : (s.fpPut e f t).W = s.W := by
  cases t <;> rfl

/-- The byte ranges of a store, in each case of a transfer. -/
theorem State.FpMoves.fpRanges {s : State} {f : FReg} (h : s.FpMoves f) (e : BitVec 64) :
    s.fpRanges e = match s.fpTransfer with
      | .single => [(e, 4)]
      | .pair => [(e, 4), (e + 4, 4)]
      | .double => [(e, 8)] := by
  rcases h.cases with ⟨hsize, haq⟩ | ⟨hsize, haq, -⟩ | ⟨hsize, haq⟩
  · rw [State.fpTransfer_of_single hsize, State.fpRanges, if_neg (by simp [hsize])]
  · rw [State.fpTransfer_of_pair hsize haq, State.fpRanges, if_pos hsize, if_neg (by simp [haq])]
  · rw [State.fpTransfer_of_double hsize haq, State.fpRanges, if_pos hsize, if_pos haq]

theorem frame_fpPut {s : State} {f : FReg} (hm : Memory.wf s.mem) (h : s.FpMoves f) (e : BitVec 64) :
    Frame { stored := s.fpRanges e } s (s.fpPut e f s.fpTransfer) := by
  rw [h.fpRanges e]
  cases s.fpTransfer with
  | single => exact frame_putBytes s hm _ e 4 _
  | pair => exact (frame_putBytes s hm _ e 4 _).andThen (frame_putBytes _ (Memory.wf_writeBytes hm) _ (e + 4) 4 _) rfl rfl
  | double => exact frame_putBytes s hm _ e 8 _

/-- A store after the bytes of a value leaves the value. -/
theorem State.valueAt_putBytes_above (s : State) (hm : Memory.wf s.mem) (o : ByteOrder) {a b : BitVec 64} {n : Nat}
    (hab : a.toNat + n ≤ b.toNat) (count v : Nat) : (s.putBytes o b count v).valueAt o a n = s.valueAt o a n := by
  have hbytes : Memory.readBytes (s.putBytes o b count v).mem a.toNat n = Memory.readBytes s.mem a.toNat n :=
    List.map_congr_left fun k hk => Memory.read_writeBytes_of_outside hm (by have := List.mem_range.1 hk; omega)
  rw [State.valueAt, State.valueAt, hbytes]

/-- 4 bytes past an address that is a multiple of 8. -/
theorem toNat_add_four {e : BitVec 64} (h : e.toNat % 8 = 0) : (e + 4).toNat = e.toNat + 4 := by
  rw [BitVec.toNat_add, Nat.mod_eq_of_lt]
  · rfl
  · have := e.isLt
    change e.toNat + 4 < _
    omega

theorem State.fpStored_fpPut {s : State} {e : BitVec 64} {f : FReg} (hm : Memory.wf s.mem) (h : s.FpMoves f)
    (hw : s.Writes e s.fpBytes s.fpBytes) : s.FpStored e f (s.fpPut e f s.fpTransfer) := by
  have halign := hw.aligned
  rcases h.cases with ⟨hsize, haq⟩ | ⟨hsize, haq, -⟩ | ⟨hsize, haq⟩
  · rw [State.fpTransfer_of_single hsize]
    exact ⟨fun _ => (s.valueAt_putBytes hm _ e 4 _).trans (Nat.mod_eq_of_lt (BitVec.isLt _)), by simp [hsize], by simp [haq]⟩
  · rw [State.fpTransfer_of_pair hsize haq]
    rw [State.fpBytes, if_pos hsize] at halign
    have hwf := Memory.wf_writeBytes (a := e.toNat) (bs := s.localOrder.bytes 4 (s.f32 (pairRegisters s.params.pairLow f).1).toNat) hm
    refine ⟨by simp [hsize], fun _ _ => ⟨?_, ?_⟩, by simp [haq]⟩
    · rw [State.fpPut, State.valueAt_putBytes_above _ hwf _ (by rw [toNat_add_four halign]), s.valueAt_putBytes hm]
      exact Nat.mod_eq_of_lt (BitVec.isLt _)
    · rw [State.fpPut, State.valueAt_putBytes _ hwf]
      exact Nat.mod_eq_of_lt (BitVec.isLt _)
  · rw [State.fpTransfer_of_double hsize haq]
    exact ⟨by simp [hsize], by simp [haq], fun _ => (s.valueAt_putBytes hm _ e 8 _).trans (Nat.mod_eq_of_lt (BitVec.isLt _))⟩

/-! The six forms. -/

theorem State.xNat_fpPlace (s : State) (t : FpTransfer) (f : FReg) (v : BitVec 64) (r : Reg) :
    (s.fpPlace t f v).xNat r = s.xNat r := by
  cases t <;> rfl

theorem toNat_sub_ofNat {w : Nat} (x : BitVec w) (k : Nat) : ((x - BitVec.ofNat w k).toNat : Int) = ((x.toNat : Int) - k) % 2 ^ w := by
  have hlt := Nat.mod_lt k (Nat.two_pow_pos w)
  rw [BitVec.toNat_sub, BitVec.toNat_ofNat]
  push_cast [Nat.cast_sub hlt.le]
  refine Int.ModEq.eq (Int.modEq_iff_dvd.2 ⟨-(k / 2 ^ w) - 1, ?_⟩)
  have := Int.mul_ediv_add_emod (k : Int) (2 ^ w)
  linarith

/-- An `FMOV.S` from memory. -/
theorem completes_fpLoadFrom {i : Instr} {s : State} {f : FReg} {a e : BitVec 64} (h : s.FpMoves f) (he : e = s.ea a)
    (hr : s.Reads e s.fpBytes s.fpBytes) (hexec : exec i s = fpLoadFrom a f s) :
    Completes i s { fregs := s.fpMoved f } (s.FpLoaded e f) := by
  subst he
  rw [← s.size_fpTransfer, ← BitVec.setWidth_eq a] at hr
  have hload := State.fpLoad_of_reads hr
  rw [BitVec.setWidth_eq] at hload
  obtain ⟨hpc, hslot, haq⟩ := s.fpPlace_next s.fpTransfer f (s.fpImage (s.ea a) s.fpTransfer)
  exact completes_of_next ((exec_transfer h hexec).trans (finish_of_ok hload)) (frame_fpPlace s f _) hpc hslot haq
    (State.fpLoaded_fpPlace h rfl rfl)

/-- An `FMOV.S` to memory. -/
theorem completes_fpStoreTo {i : Instr} {s : State} {f : FReg} {a e : BitVec 64} (hm : Memory.wf s.mem) (h : s.FpMoves f)
    (he : e = s.ea a) (hw : s.Writes e s.fpBytes s.fpBytes) (hexec : exec i s = fpStoreTo a f s) :
    Completes i s { stored := s.fpRanges e } (s.FpStored e f) := by
  subst he
  have hw' := hw
  rw [← s.size_fpTransfer, ← BitVec.setWidth_eq a] at hw'
  have hstore := State.fpStore_of_writes (f := f) hw'
  rw [BitVec.setWidth_eq] at hstore
  obtain ⟨hpc, hslot, hsr, -⟩ := s.fpPut_next s.fpTransfer (s.ea a) f
  exact completes_of_next ((exec_transfer h hexec).trans (by rw [hstore, finish_ok])) (frame_fpPut hm h _) hpc hslot
    (by rw [State.aq, State.aq, hsr]) (State.fpStored_fpPut hm h hw)

/-- `FMOV.S` at `@Rm+`. -/
theorem completes_fmovPop {s : State} {r : Reg} {f : FReg} (h : s.FpMoves f)
    (hr : s.Reads (s.ea ((s.x r).setWidth 64)) s.fpBytes s.fpBytes) :
    Completes (.fmovPop r f) s { regs := [r], fregs := s.fpMoved f } fun t =>
      s.FpLoaded (s.ea ((s.x r).setWidth 64)) f t ∧ t.xNat r = (s.xNat r + s.fpBytes) % 2 ^ s.W := by
  have hr' := hr
  rw [← s.size_fpTransfer] at hr'
  have hload := State.fpLoad_of_reads hr'
  generalize s.ea ((s.x r).setWidth 64) = e at *
  have hexec : exec (.fmovPop r f) s =
      .next (((s.popped r s.fpTransfer.size).fpPlace s.fpTransfer f (s.fpImage e s.fpTransfer)).advance 2) :=
    (exec_transfer h rfl).trans (finish_of_ok hload)
  obtain ⟨hpc, hslot, haq⟩ := (s.popped r s.fpTransfer.size).fpPlace_next s.fpTransfer f (s.fpImage e s.fpTransfer)
  refine completes_of_next hexec ((frame_setX s r _).andThen (frame_fpPlace (s.popped r s.fpTransfer.size) f _) rfl rfl) hpc hslot haq
    ⟨State.fpLoaded_fpPlace h rfl rfl, ?_⟩
  rw [State.advance_xNat, State.xNat_fpPlace, State.xNat_popped, s.size_fpTransfer]

/-- `FMOV.S` at `@-Rn`. -/
theorem completes_fmovPush {s : State} {r : Reg} {f : FReg} (hm : Memory.wf s.mem) (h : s.FpMoves f)
    (hw : s.Writes (s.ea (s.below r s.fpBytes)) s.fpBytes s.fpBytes) :
    Completes (.fmovPush f r) s { regs := [r], stored := s.fpRanges (s.ea (s.below r s.fpBytes)) } fun t =>
      s.FpStored (s.ea (s.below r s.fpBytes)) f t ∧ (t.xNat r : Int) = ((s.xNat r : Int) - s.fpBytes) % 2 ^ s.W := by
  have hstore := State.fpStore_of_writes (t := s.fpTransfer) (a := s.x r - BitVec.ofNat s.W s.fpTransfer.size) (f := f)
    (by rw [s.size_fpTransfer]; exact hw)
  rw [s.size_fpTransfer] at hstore
  change s.fpStore s.fpTransfer _ f = .ok (s.fpPut (s.ea (s.below r s.fpBytes)) f s.fpTransfer) at hstore
  have hput := State.fpStored_fpPut hm h hw
  have hframe := frame_fpPut hm h (s.ea (s.below r s.fpBytes))
  generalize s.ea (s.below r s.fpBytes) = e at *
  have hexec : exec (.fmovPush f r) s =
      .next (((s.fpPut e f s.fpTransfer).setX r (s.x r - BitVec.ofNat s.W s.fpBytes)).advance 2) := by
    refine (exec_transfer h rfl).trans ?_
    rw [s.size_fpTransfer]
    exact finish_of_ok hstore
  obtain ⟨hpc, hslot, hsr, hparams⟩ := s.fpPut_next s.fpTransfer e f
  refine completes_of_next hexec (hframe.trans (frame_setX _ r _) (.inl (by rw [State.bankBActive, State.bankBActive, hsr, hparams]))
    (by simp) (by simp) (by simp) (by simp) (by simp) (by simp)) hpc hslot (by rw [State.aq, State.aq, ← hsr]; rfl) ⟨hput, ?_⟩
  have hW : (s.fpPut e f s.fpTransfer).W = s.W := s.fpPut_W s.fpTransfer e f
  rw [State.advance_xNat, State.xNat_setX_self, hW, Nat.mod_eq_of_lt (BitVec.isLt _)]
  exact toNat_sub_ofNat (s.x r) s.fpBytes

/-! Accesses that miss. -/

theorem State.fpLoad_of_misses {s : State} {w : Nat} {a : BitVec w} (h : s.Misses (s.ea (a.setWidth 64)) s.fpBytes s.fpBytes) :
    s.fpLoad s.fpTransfer a = .error (.raise (.addressError (s.ea (a.setWidth 64)) .read) s) :=
  State.fpLoad_of_error (by rw [s.size_fpTransfer]; exact State.checkAccess_of_misses h)

theorem State.fpStore_of_misses {s : State} {w : Nat} {a : BitVec w} {f : FReg}
    (h : s.Misses (s.ea (a.setWidth 64)) s.fpBytes s.fpBytes) :
    s.fpStore s.fpTransfer a f = .error (.raise (.addressError (s.ea (a.setWidth 64)) .write) s) :=
  State.fpStore_of_error (by rw [s.size_fpTransfer]; exact State.checkAccess_of_misses h)

theorem traps_fpLoadFrom {i : Instr} {s : State} {f : FReg} {a : BitVec s.W} (h : s.FpMoves f)
    (hmiss : s.Misses (s.ea (a.setWidth 64)) s.fpBytes s.fpBytes) (hexec : exec i s = fpLoadFrom (a.setWidth 64) f s) :
    Traps i s (.addressError (s.ea (a.setWidth 64)) .read) := by
  rw [← s.setWidth_self a] at hmiss ⊢
  exact (exec_transfer h hexec).trans (finish_of_raise (State.fpLoad_of_misses hmiss))

theorem traps_fpStoreTo {i : Instr} {s : State} {f : FReg} {a : BitVec s.W} (h : s.FpMoves f)
    (hmiss : s.Misses (s.ea (a.setWidth 64)) s.fpBytes s.fpBytes) (hexec : exec i s = fpStoreTo (a.setWidth 64) f s) :
    Traps i s (.addressError (s.ea (a.setWidth 64)) .write) := by
  rw [← s.setWidth_self a] at hmiss ⊢
  exact (exec_transfer h hexec).trans (by rw [State.fpStore_of_misses hmiss, finish_raise])

theorem traps_fmovPush {s : State} {r : Reg} {f : FReg} (h : s.FpMoves f)
    (hmiss : s.Misses (s.ea (s.below r s.fpBytes)) s.fpBytes s.fpBytes) :
    Traps (.fmovPush f r) s (.addressError (s.ea (s.below r s.fpBytes)) .write) := by
  refine (exec_transfer h rfl).trans ?_
  rw [s.size_fpTransfer]
  exact finish_of_raise (State.fpStore_of_misses hmiss)

/-- Settles O60. -/
theorem fpuMemoryMoves : Obligations.FpuMemoryMoves := by
  rintro s f r _ _ _ _ hm h rfl rfl rfl rfl
  exact ⟨fun hr => ⟨completes_fpLoadFrom h rfl hr rfl, completes_fmovPop h hr⟩, fun hr => completes_fpLoadFrom h rfl hr rfl,
    fun hw => completes_fpStoreTo hm h rfl hw rfl, fun hw => completes_fpStoreTo hm h rfl hw rfl, fun hw => completes_fmovPush hm h hw,
    fun hx => ⟨traps_fpLoadFrom h hx rfl, (exec_transfer h rfl).trans (finish_of_raise (State.fpLoad_of_misses hx)),
      traps_fpStoreTo h hx rfl⟩, fun hx => ⟨traps_fpLoadFrom h hx rfl, traps_fpStoreTo h hx rfl⟩, traps_fmovPush h⟩

end Sys2Proof.Machine
end

section
/-!
PROOFS. The IEEE 754 functions: what the fields of a format hold, and that rounding is exact on it.
-/

namespace Sys2Proof.Machine

/-! The fields of a number. -/

theorem two_pow_width_pred (f : FpFormat) : 2 ^ (f.width - 1) = (topExponent f + 1) * 2 ^ fractionBits f := by
  cases f <;> rfl

theorem two_pow_width (f : FpFormat) : 2 ^ f.width = 2 * 2 ^ (f.width - 1) := by cases f <;> rfl

/-- A magnitude that a format holds, and the exponent and fraction fields that hold it: a denormal, or a fraction with its hidden bit
shifted by the exponent. -/
inductive HeldBy (f : FpFormat) : Nat → Nat → Prop where
  /-- A denormal or zero. -/
  | denormal {m : Nat} (hm : m < 2 ^ fractionBits f) : HeldBy f m m
  /-- A normal number of exponent field `e + 1`. -/
  | normal {e fraction : Nat} (he : e + 1 < topExponent f) (hf : fraction < 2 ^ fractionBits f) :
    HeldBy f ((2 ^ fractionBits f + fraction) * 2 ^ e) ((e + 1) * 2 ^ fractionBits f + fraction)

theorem HeldBy.fields_lt {f : FpFormat} {m n : Nat} (h : HeldBy f m n) : n < 2 ^ (f.width - 1) := by
  rw [two_pow_width_pred]
  cases h with
  | denormal hm => exact hm.trans_le (Nat.le_mul_of_pos_left _ (Nat.succ_pos _))
  | @normal e fraction he hf =>
    calc (e + 1) * 2 ^ fractionBits f + fraction < (e + 2) * 2 ^ fractionBits f := by rw [Nat.succ_mul (e + 1)]; omega
      _ ≤ (topExponent f + 1) * 2 ^ fractionBits f := Nat.mul_le_mul_right _ (by omega)

/-- The binary logarithm of a normal number. -/
theorem log2_normal {b e fraction : Nat} (hf : fraction < 2 ^ b) : ((2 ^ b + fraction) * 2 ^ e).log2 = b + e := by
  have hpos : 0 < 2 ^ b := Nat.two_pow_pos b
  rw [Nat.log2_eq_iff (by positivity), Nat.pow_add, Nat.pow_succ', Nat.pow_add, ← Nat.mul_assoc]
  exact ⟨Nat.mul_le_mul_right _ (by omega), Nat.mul_lt_mul_of_pos_right (by omega) (Nat.two_pow_pos e)⟩

/-- A magnitude that a format holds is a multiple of the distance of its neighbours. -/
theorem HeldBy.quantum_dvd {f : FpFormat} {m n : Nat} (h : HeldBy f m n) : quantum f m ∣ m := by
  cases h with
  | denormal hm =>
    by_cases h0 : m = 0
    · exact h0 ▸ dvd_zero _
    · have := (Nat.log2_lt h0).2 hm
      rw [quantum, show m.log2 - fractionBits f = 0 by omega]
      exact one_dvd m
  | normal he hf =>
    rw [quantum, log2_normal hf, Nat.add_sub_cancel_left]
    exact Nat.dvd_mul_left ..

theorem HeldBy.lt {f : FpFormat} {m n : Nat} (h : HeldBy f m n) : m < 2 ^ (fractionBits f + (topExponent f - 1)) := by
  cases h with
  | denormal hm => exact hm.trans_le (Nat.pow_le_pow_right (by norm_num) (by omega))
  | @normal e fraction he hf =>
    calc (2 ^ fractionBits f + fraction) * 2 ^ e < 2 ^ (fractionBits f + 1) * 2 ^ e :=
          Nat.mul_lt_mul_of_pos_right (by rw [Nat.pow_succ]; omega) (Nat.two_pow_pos e)
      _ = 2 ^ (fractionBits f + 1 + e) := (Nat.pow_add ..).symm
      _ ≤ _ := Nat.pow_le_pow_right (by norm_num) (by omega)

/-- A magnitude within the range that is a multiple of the distance of its neighbours is held. -/
theorem exists_heldBy {f : FpFormat} {m : Nat} (hdvd : quantum f m ∣ m) (hlt : m < 2 ^ (fractionBits f + (topExponent f - 1))) :
    ∃ n, HeldBy f m n := by
  by_cases hm : m < 2 ^ fractionBits f
  · exact ⟨m, .denormal hm⟩
  · have h0 : m ≠ 0 := by have := Nat.two_pow_pos (fractionBits f); omega
    have hlow : fractionBits f ≤ m.log2 := (Nat.le_log2 h0).2 (by omega)
    have hhigh := (Nat.log2_lt h0).2 hlt
    obtain ⟨q, hq⟩ := hdvd
    rw [quantum] at hq
    obtain ⟨e, he⟩ := Nat.exists_eq_add_of_le hlow
    rw [he, Nat.add_sub_cancel_left, Nat.mul_comm] at hq
    have hbounds := (Nat.log2_eq_iff h0).1 he
    rw [hq, Nat.pow_add, Nat.add_right_comm, Nat.pow_add] at hbounds
    have hq1 := Nat.le_of_mul_le_mul_right hbounds.1 (Nat.two_pow_pos e)
    have hq2 := Nat.lt_of_mul_lt_mul_right hbounds.2
    rw [Nat.pow_succ] at hq2
    obtain ⟨fraction, rfl⟩ := Nat.exists_eq_add_of_le hq1
    rw [hq]
    exact ⟨_, .normal (by omega) (by omega)⟩

/-! The bits of a sign and fields. -/

theorem toNat_signed {f : FpFormat} (neg : Bool) {n : Nat} (h : n < 2 ^ (f.width - 1)) :
    (signed f neg n).toNat = (if neg then 2 ^ (f.width - 1) else 0) + n := by
  have hw := two_pow_width f
  rw [signed, BitVec.toNat_ofNat, Nat.mod_eq_of_lt]
  rw [hw]
  split <;> omega

theorem msb_signed {f : FpFormat} (neg : Bool) {n : Nat} (h : n < 2 ^ (f.width - 1)) : (signed f neg n).msb = neg := by
  rw [BitVec.msb_eq_decide, toNat_signed neg h]
  cases neg
  · exact decide_eq_false (by simpa using h)
  · exact decide_eq_true (by simp)

/-- The fraction field below the exponent field. -/
theorem fraction_signed {f : FpFormat} (neg : Bool) {n : Nat} (h : n < 2 ^ (f.width - 1)) :
    (signed f neg n).toNat % 2 ^ fractionBits f = n % 2 ^ fractionBits f := by
  rw [toNat_signed neg h, two_pow_width_pred]
  cases neg
  · rw [if_neg (by decide), Nat.zero_add]
  · rw [if_pos rfl, Nat.mul_add_mod']

theorem exponent_signed {f : FpFormat} (neg : Bool) {n : Nat} (h : n < 2 ^ (f.width - 1)) :
    (signed f neg n).toNat / 2 ^ fractionBits f % (topExponent f + 1) = n / 2 ^ fractionBits f := by
  have hn : n / 2 ^ fractionBits f < topExponent f + 1 := Nat.div_lt_of_lt_mul (by rw [Nat.mul_comm, ← two_pow_width_pred]; exact h)
  rw [toNat_signed neg h, two_pow_width_pred]
  cases neg
  · rw [if_neg (by decide), Nat.zero_add, Nat.mod_eq_of_lt hn]
  · rw [if_pos rfl, Nat.mul_comm, Nat.mul_add_div (Nat.two_pow_pos _), Nat.add_mod_left, Nat.mod_eq_of_lt hn]

/-- Bits are their sign and their fields. -/
theorem signed_msb_mod {f : FpFormat} (c : BitVec f.width) : signed f c.msb (c.toNat % 2 ^ (f.width - 1)) = c := by
  have hc := c.isLt
  have hw := two_pow_width f
  refine BitVec.eq_of_toNat_eq ((toNat_signed _ (Nat.mod_lt _ (Nat.two_pow_pos _))).trans ?_)
  rw [BitVec.msb_eq_decide]
  by_cases h : 2 ^ (f.width - 1) ≤ c.toNat
  · rw [decide_eq_true h, if_pos rfl, Nat.mod_eq_sub_mod h, Nat.mod_eq_of_lt (by omega)]
    omega
  · rw [decide_eq_false h, if_neg (by decide), Nat.mod_eq_of_lt (by omega), Nat.zero_add]

/-! Reading and writing a number. -/

theorem unpack_of_heldBy {f : FpFormat} {m n : Nat} (h : HeldBy f m n) (neg : Bool) : unpack f false (signed f neg n) = .finite neg m := by
  have hn := h.fields_lt
  simp only [unpack, fraction_signed neg hn, exponent_signed neg hn, msb_signed neg hn]
  cases h with
  | denormal hm =>
    rw [Nat.mod_eq_of_lt hm, Nat.div_eq_of_lt hm, if_neg (by cases f <;> decide), if_pos rfl, if_neg (by decide)]
  | @normal e fraction he hf =>
    rw [Nat.mul_comm (e + 1), Nat.mul_add_mod, Nat.mul_add_div (Nat.two_pow_pos _), Nat.mod_eq_of_lt hf, Nat.div_eq_of_lt hf,
      Nat.add_zero, if_neg (by omega), if_neg (by omega), Nat.add_sub_cancel]

theorem heldBy_of_unpack {f : FpFormat} {c : BitVec f.width} {neg : Bool} {m : Nat} (h : unpack f false c = .finite neg m) :
    ∃ n, HeldBy f m n ∧ c = signed f neg n := by
  have hn : c.toNat % 2 ^ (f.width - 1) = c.toNat / 2 ^ fractionBits f % (topExponent f + 1) * 2 ^ fractionBits f +
      c.toNat % 2 ^ fractionBits f := by
    rw [two_pow_width_pred, Nat.mul_comm (topExponent f + 1), Nat.mod_mul, Nat.mul_comm, Nat.add_comm]
  have hc := signed_msb_mod c
  have hfraction := Nat.mod_lt c.toNat (Nat.two_pow_pos (fractionBits f))
  have hexponent := Nat.mod_lt (c.toNat / 2 ^ fractionBits f) (Nat.succ_pos (topExponent f))
  rw [hn] at hc
  simp only [unpack] at h
  generalize c.toNat / 2 ^ fractionBits f % (topExponent f + 1) = e at *
  generalize c.toNat % 2 ^ fractionBits f = fraction at *
  split at h
  · split at h <;> cases h
  · next htop =>
    split at h
    · next hzero =>
      obtain ⟨rfl, rfl⟩ := FpNumber.finite.inj h
      rw [hzero, Nat.zero_mul, Nat.zero_add] at hc
      exact ⟨fraction, .denormal hfraction, hc.symm⟩
    · next hzero =>
      obtain ⟨rfl, rfl⟩ := FpNumber.finite.inj h
      obtain ⟨e, rfl⟩ := Nat.exists_eq_succ_of_ne_zero hzero
      exact ⟨_, .normal (by omega) hfraction, hc.symm⟩

theorem pack_of_heldBy {f : FpFormat} {m n : Nat} (h : HeldBy f m n) (z neg : Bool) : pack f z false neg m = signed f neg n := by
  cases h with
  | denormal hm => rw [pack, if_pos hm, if_neg (by decide)]
  | @normal e fraction he hf =>
    have hge : ¬ (2 ^ fractionBits f + fraction) * 2 ^ e < 2 ^ fractionBits f :=
      Nat.not_lt.2 ((Nat.le_add_right _ _).trans (Nat.le_mul_of_pos_right _ (Nat.two_pow_pos e)))
    rw [pack, if_neg hge, log2_normal hf, Nat.add_sub_cancel_left, if_neg (by omega), Nat.mul_div_cancel _ (Nat.two_pow_pos e),
      Nat.add_sub_cancel_left]

/-! Rounding a magnitude that the format holds. -/

theorem roundedTo_of_dvd {f : FpFormat} {m den : Nat} (h : quantum f m ∣ m) (hden : 0 < den) (z : Bool) :
    roundedTo f z (m * den) den = m := by
  have hstep : 0 < quantum f m := Nat.two_pow_pos _
  obtain ⟨q, hq⟩ := h
  have hnum : m * den = den * quantum f m * q := by rw [Nat.mul_assoc, ← hq, Nat.mul_comm]
  have hpos : 0 < den * quantum f m := Nat.mul_pos hden hstep
  simp only [roundedTo]
  rw [Nat.mul_div_cancel _ hden, hnum, Nat.mul_mod_right, Nat.mul_div_cancel_left _ hpos, if_neg (by simp [hpos.ne]), Nat.mul_comm, ← hq]

theorem rounded_of_heldBy {f : FpFormat} {m n den : Nat} (h : HeldBy f m n) (hden : 0 < den) (z neg : Bool) :
    rounded f z false neg (m * den) den = signed f neg n := by
  rw [rounded, roundedTo_of_dvd h.quantum_dvd hden, pack_of_heldBy h]

end Sys2Proof.Machine
end

section
/-!
PROOFS. The IEEE 754 functions: comparisons, exact results, conversions and back.
-/

namespace Sys2Proof.Machine

/-! Signs and magnitudes. -/

theorem natAbs_signedUnits (neg : Bool) (m : Nat) : (signedUnits neg m).natAbs = m := by
  cases neg <;> simp [signedUnits]

theorem signedUnits_neg_iff {neg : Bool} {m : Nat} (h : m ≠ 0) : signedUnits neg m < 0 ↔ neg = true := by
  cases neg
  · simp [signedUnits]
  · simpa [signedUnits] using Nat.pos_of_ne_zero h

theorem signedUnits_ne_zero {neg : Bool} {m : Nat} (h : m ≠ 0) : signedUnits neg m ≠ 0 := by
  rw [← Int.natAbs_ne_zero, natAbs_signedUnits]
  exact h

theorem signedUnits_mul (u v : Bool) (x y : Nat) : signedUnits u x * signedUnits v y = signedUnits (u ^^ v) (x * y) := by
  cases u <;> cases v <;> simp [signedUnits]

/-- A nonzero magnitude has one sign. -/
theorem eq_of_signedUnits_eq {u v : Bool} {x y : Nat} (h : signedUnits u x = signedUnits v y) (hx : x ≠ 0) : u = v ∧ x = y := by
  have hxy : x = y := by rw [← natAbs_signedUnits u x, h, natAbs_signedUnits]
  refine ⟨Bool.eq_iff_iff.2 ?_, hxy⟩
  rw [← signedUnits_neg_iff hx, h, signedUnits_neg_iff (hxy ▸ hx)]

theorem signedUnits_decide (k : Int) : signedUnits (decide (k < 0)) k.natAbs = k := by
  by_cases h : k < 0
  · rw [decide_eq_true h, signedUnits, if_pos rfl]
    omega
  · rw [decide_eq_false h, signedUnits, if_neg (by decide)]
    omega

/-- A signed number of units is rounded as its magnitude. -/
theorem roundedInt_signedUnits (f : FpFormat) (z zeroNeg neg : Bool) {m : Nat} (h : m ≠ 0) (den : Nat) :
    roundedInt f z false zeroNeg (signedUnits neg m) den = rounded f z false neg m den := by
  rw [roundedInt, if_neg (signedUnits_ne_zero h), natAbs_signedUnits]
  exact congrArg (rounded f z false · m den) (Bool.eq_iff_iff.2 (decide_eq_true_iff.trans (signedUnits_neg_iff h)))

/-! The parameter. -/

theorem State.byNumerics_of_ieee {s : State} (hs : s.params.numerics = .ieee) {α : Type} {o : Option α} {v : α} (h : o = some v)
    (other : α) : s.byNumerics o other = v := by
  simp only [State.byNumerics, hs, h]

/-- Both rounding modes round. -/
theorem exists_rounding {rm : BitVec 2} (h : rm = 0 ∨ rm = 1) : ∃ z, rounding rm = some z := by
  rcases h with rfl | rfl
  · exact ⟨false, rfl⟩
  · exact ⟨true, rfl⟩

/-! The one of a format. -/

/-- The exponent of the units of 1. -/
def unitExponent : FpFormat → Nat
  | .single => 149
  | .double => 1074

theorem unitsOfOne_eq (f : FpFormat) : unitsOfOne f = 2 ^ unitExponent f := by
  cases f <;> rw [unitsOfOne, unitExponent]

theorem unitsOfOne_pos (f : FpFormat) : 0 < unitsOfOne f := by
  rw [unitsOfOne_eq]
  exact Nat.two_pow_pos _

/-! Comparisons. -/

section
variable {s : State} {f : FpFormat} (hs : s.params.numerics = .ieee)
include hs

theorem compares_finite {dn : Bool} {a b : BitVec f.width} {u v : Bool} {x y : Nat} (ha : unpack f dn a = .finite u x)
    (hb : unpack f dn b = .finite v y) :
    (s.fpEq f dn a b = true ↔ signedUnits u x = signedUnits v y) ∧ (s.fpGt f dn a b = true ↔ signedUnits v y < signedUnits u x) := by
  rw [State.fpEq, State.fpGt, State.byNumerics_of_ieee hs rfl, State.byNumerics_of_ieee hs rfl, ieeeEq, ieeeGt, ha, hb]
  exact ⟨beq_iff_eq, decide_eq_true_iff⟩

/-! Exact sums and products. -/

variable {rm : BitVec 2} (hrm : rm = 0 ∨ rm = 1)
include hrm

theorem fpAdd_exact {a b c : BitVec f.width} {u v w : Bool} {x y z : Nat} (ha : unpack f false a = .finite u x)
    (hb : unpack f false b = .finite v y) (hc : unpack f false c = .finite w z) (hz : z ≠ 0)
    (hsum : signedUnits w z = signedUnits u x + signedUnits v y) : s.fpAdd f rm false a b = c := by
  obtain ⟨r, hr⟩ := exists_rounding hrm
  obtain ⟨n, hheld, rfl⟩ := heldBy_of_unpack hc
  refine State.byNumerics_of_ieee hs ?_ _
  have hround := rounded_of_heldBy hheld Nat.one_pos r w
  rw [Nat.mul_one] at hround
  simp only [ieeeAdd, hr, ha, hb, Option.bind_eq_bind, Option.bind_some]
  rw [← hsum, roundedInt_signedUnits f r _ w hz, hround]

theorem fpMul_exact {a b c : BitVec f.width} {u v w : Bool} {x y z : Nat} (ha : unpack f false a = .finite u x)
    (hb : unpack f false b = .finite v y) (hc : unpack f false c = .finite w z) (hz : z ≠ 0)
    (hproduct : signedUnits w z * unitsOfOne f = signedUnits u x * signedUnits v y) : s.fpMul f rm false a b = c := by
  obtain ⟨r, hr⟩ := exists_rounding hrm
  obtain ⟨n, hheld, rfl⟩ := heldBy_of_unpack hc
  have hone := unitsOfOne_pos f
  have hunits : signedUnits w (z * unitsOfOne f) = signedUnits (u ^^ v) (x * y) := by
    rw [← signedUnits_mul, ← hproduct]
    cases w <;> simp [signedUnits]
  obtain ⟨hsign, hmag⟩ := eq_of_signedUnits_eq hunits (Nat.mul_ne_zero hz hone.ne')
  refine State.byNumerics_of_ieee hs ?_ _
  simp only [ieeeMul, hr, ha, hb, Option.bind_eq_bind, Option.bind_some]
  rw [← hsign, ← hmag, rounded_of_heldBy hheld hone]

end

/-! Integers. -/

/-- An integer that the fraction holds with its hidden bit is held as a number. -/
theorem heldBy_integer {f : FpFormat} {k : Nat} (h : k < 2 ^ (fractionBits f + 1)) : ∃ n, HeldBy f (k * unitsOfOne f) n := by
  have hrange : fractionBits f + 1 + unitExponent f ≤ fractionBits f + (topExponent f - 1) := by cases f <;> decide
  rw [unitsOfOne_eq]
  refine exists_heldBy ?_ ?_
  · by_cases h0 : k = 0
    · rw [h0, Nat.zero_mul]
      exact dvd_zero _
    · have hlog := (Nat.log2_lt h0).2 h
      have hsum : (k * 2 ^ unitExponent f).log2 < fractionBits f + 1 + unitExponent f := by
        rw [Nat.log2_lt (by positivity), Nat.pow_add]
        exact Nat.mul_lt_mul_of_pos_right h (Nat.two_pow_pos _)
      exact (Nat.pow_dvd_pow 2 (by omega)).trans (Nat.dvd_mul_left _ _)
  · calc k * 2 ^ unitExponent f < 2 ^ (fractionBits f + 1) * 2 ^ unitExponent f := Nat.mul_lt_mul_of_pos_right h (Nat.two_pow_pos _)
      _ = 2 ^ (fractionBits f + 1 + unitExponent f) := (Nat.pow_add ..).symm
      _ ≤ _ := Nat.pow_le_pow_right (by norm_num) hrange

theorem fpTrc_fpFloat {s : State} {f : FpFormat} (hs : s.params.numerics = .ieee) {rm : BitVec 2} (hrm : rm = 0 ∨ rm = 1)
    {k : Int} {bits : Nat} (hk : k.natAbs < 2 ^ (fractionBits f + 1)) (hlow : -2 ^ (bits - 1) ≤ k) (hhigh : k < 2 ^ (bits - 1)) :
    s.fpTrc f bits (s.fpFloat f rm k) = k := by
  obtain ⟨r, hr⟩ := exists_rounding hrm
  obtain ⟨n, hheld⟩ := heldBy_integer hk
  have hone := unitsOfOne_pos f
  have hfloat : s.fpFloat f rm k = signed f (decide (k < 0)) n := by
    refine State.byNumerics_of_ieee hs ?_ _
    have hround := rounded_of_heldBy hheld Nat.one_pos r (decide (k < 0))
    have hneg : (if k * (unitsOfOne f : Int) = 0 then false else decide (k * (unitsOfOne f : Int) < 0)) = decide (k < 0) := by
      by_cases h0 : k = 0
      · rw [h0, Int.zero_mul, if_pos rfl]
        rfl
      · rw [if_neg (mul_ne_zero h0 (by omega)), decide_eq_decide]
        rw [mul_neg_iff]
        omega
    rw [Nat.mul_one] at hround
    simp only [ieeeFloat, hr, Option.bind_eq_bind, Option.bind_some, roundedInt]
    rw [hneg, Int.natAbs_mul, Int.natAbs_natCast, hround]
  rw [hfloat]
  refine State.byNumerics_of_ieee hs ?_ _
  simp only [ieeeTrc, unpack_of_heldBy hheld]
  rw [Nat.mul_div_cancel _ hone, signedUnits_decide, if_pos ⟨hlow, hhigh⟩]

/-! Between the formats. -/

theorem log2_mul_two_pow {x : Nat} (h : x ≠ 0) (d : Nat) : (x * 2 ^ d).log2 = x.log2 + d := by
  obtain ⟨hlow, hhigh⟩ := (Nat.log2_eq_iff h).1 rfl
  rw [Nat.log2_eq_iff (by positivity), Nat.pow_add, Nat.add_right_comm, Nat.pow_add]
  exact ⟨Nat.mul_le_mul_right _ hlow, Nat.mul_lt_mul_of_pos_right hhigh (Nat.two_pow_pos d)⟩

/-- A double holds every magnitude that a single holds, in a smaller unit. -/
theorem heldBy_double {x n d : Nat} (h : HeldBy .single x n) (hd : d ≤ 1821) : ∃ n', HeldBy .double (x * 2 ^ d) n' := by
  have hdvd := Nat.mul_dvd_mul_right h.quantum_dvd (2 ^ d)
  rw [quantum, ← Nat.pow_add] at hdvd
  simp only [fractionBits] at hdvd
  refine exists_heldBy ?_ ?_
  · by_cases h0 : x = 0
    · rw [h0, Nat.zero_mul]
      exact dvd_zero _
    · rw [quantum, log2_mul_two_pow h0]
      exact (Nat.pow_dvd_pow 2 (by simp only [fractionBits]; omega)).trans hdvd
  · calc x * 2 ^ d < 2 ^ (fractionBits .single + (topExponent .single - 1)) * 2 ^ d :=
          Nat.mul_lt_mul_of_pos_right h.lt (Nat.two_pow_pos d)
      _ = 2 ^ (fractionBits .single + (topExponent .single - 1) + d) := (Nat.pow_add ..).symm
      _ ≤ _ := Nat.pow_le_pow_right (by norm_num) (by simp only [fractionBits, topExponent]; omega)

theorem fpCnvds_fpCnvsd {s : State} (hs : s.params.numerics = .ieee) {rm : BitVec 2} (hrm : rm = 0 ∨ rm = 1)
    {a : BitVec 32} {u : Bool} {x : Nat} (ha : unpack .single false a = .finite u x) : s.fpCnvds rm false (s.fpCnvsd false a) = a := by
  obtain ⟨r, hr⟩ := exists_rounding hrm
  obtain ⟨n, hheld, rfl⟩ := heldBy_of_unpack ha
  obtain ⟨n', hheld'⟩ := heldBy_double (d := 925) hheld (by decide)
  have hwiden : s.fpCnvsd false (signed .single u n) = signed .double u n' := by
    refine State.byNumerics_of_ieee hs ?_ _
    have hround := rounded_of_heldBy hheld' Nat.one_pos false u
    rw [Nat.mul_one] at hround
    rw [ieeeCnvsd, ha]
    exact congrArg some hround
  rw [hwiden]
  refine State.byNumerics_of_ieee hs ?_ _
  have hunpack := unpack_of_heldBy hheld' u
  simp only [ieeeCnvds, hr, Option.bind_eq_bind, Option.bind_some]
  rw [hunpack]
  dsimp only
  rw [rounded_of_heldBy hheld (Nat.two_pow_pos _)]

/-- Settles O57. -/
theorem fpuNumerics : Obligations.FpuNumerics := by
  intro s f rm hs hrm
  exact ⟨fun _ _ _ _ _ _ _ ha hb => compares_finite hs ha hb,
    fun _ _ _ _ _ _ _ _ _ ha hb hc hz => ⟨fpAdd_exact hs hrm ha hb hc hz, fpMul_exact hs hrm ha hb hc hz⟩,
    fun _ _ hk hlow hhigh => fpTrc_fpFloat hs hrm hk hlow hhigh, fun _ _ _ ha => fpCnvds_fpCnvsd hs hrm ha⟩

end Sys2Proof.Machine
end
